-- ==== Sys2Proof/Word.lean ====
section
/-! DEFINITION. The plain types of the my_AES core: bytes, bus words, byte arrays and the key-size selector. -/

namespace Sys2Proof

/-- An unsigned 8-bit value, bit 0 least significant (R12); read as a field element it is R100's polynomial. -/
abbrev Byte := BitVec 8

/-- A 32-bit host bus word or command word (R10). -/
abbrev Word := BitVec 32

/-- The 9-bit byte offset of a host bus access (R10, R50). -/
abbrev Offset := BitVec 9

/-- A 16-byte block, byte 0 first (R13); as a matrix it is column-major (R24). -/
abbrev Block := Vector Byte 16

/-- The 32 raw key bytes (R25). -/
abbrev KeyBytes := Vector Byte 32

/-- The 240-byte round-key schedule (R26). -/
abbrev Schedule := Vector Byte 240

/-- A schedule or key word: four bytes, `w0` the one at the lowest index (R150). -/
structure KeyWord where
  w0 : Byte
  w1 : Byte
  w2 : Byte
  w3 : Byte
  deriving DecidableEq, Repr

/-- The key length an INIT command names, one name per value of its KSZ field (R81). -/
inductive KeySel where
  | bytes16
  | bytes24
  | bytes32
  | reservedSel
  deriving DecidableEq, Repr

end Sys2Proof
end

