-- ==== Sys2Proof/Config.lean ====
section
/-! DEFINITION. The fixed parameters of this hardware, and the values the spec leaves free. -/

namespace Sys2Proof.Config

/-- `Nk`, the key length in words (R9). -/
def keyWords : Nat := 8

/-- `Nr`, the round count of the 256-bit variant (R9; 90_conflicts.md C1). -/
def rounds : Nat := 14

/-- The words of the round-key schedule, `(Nr + 1) * 4` (R9). -/
def scheduleWords : Nat := (rounds + 1) * 4

/-- The value a host read returns where R52 says `unspecified`, one for each draw (R14, R59).
It has no body on purpose: no proof can know a value of it. DESIGN CHOICE, safe (log 3). -/
opaque freeRead : Nat → Word

end Sys2Proof.Config
end

