-- ==== Sys2Proof/Machine/State.lean ====
section
/-! DEFINITION. The machine's state: the core's registers (R20), the host's inputs and outputs, and the reasons a step could stop. -/

namespace Sys2Proof.Machine

/-- The completion codes of STATUS.ERR (R230). -/
inductive ErrCode where
  | ok
  | illegalCommand
  | invalidKeyLength
  | notInitialized
  | badRoundIndex
  deriving DecidableEq, Repr

/-- The registers of the host register space (R51). -/
inductive BusReg where
  | cmd
  | status
  | result
  /-- STATE0..STATE3. -/
  | state (j : Fin 4)
  /-- KEY0..KEY7. -/
  | key (j : Fin 8)
  /-- RK0..RK59. -/
  | rk (i : Fin 60)
  | reserved
  deriving DecidableEq, Repr

/-- One operation of a host program (R91), and the polling loop of R92. -/
inductive HostOp where
  /-- `wr off, v` is BusWrite(off, v). -/
  | write (off : Offset) (v : Word)
  /-- `rd off` is BusRead(off). -/
  | read (off : Offset)
  /-- `wait`: read STATUS again and again until BUSY reads 0 (R92). -/
  | waitIdle
  deriving DecidableEq, Repr

/-- Whose step comes next (R276): the host's access, the core's Complete, or the reset input. -/
inductive Turn where
  | host
  | core
  | reset
  deriving DecidableEq, Repr

/-- The machine. The first nine fields are exactly the architectural state of R20.
The last four are the model's own: the host agent's input and output, and the counter of the free values. DESIGN CHOICE, safe
(log 1, 2, 3). -/
structure State where
  /-- STATUS.BUSY (R21). -/
  busy : Bool
  /-- KEY_VALID: false is Uninitialized, true is KeyExpanded (R22). -/
  keyValid : Bool
  /-- STATUS.OVR (R23). -/
  ovr : Bool
  /-- STATUS.ERR (R28). -/
  err : BitVec 4
  /-- RESULT (R27). -/
  result : Byte
  /-- STATE (R24). -/
  stateReg : Block
  /-- KEY (R25). -/
  keyReg : KeyBytes
  /-- RK (R26). -/
  rk : Schedule
  /-- PEND, the hidden latch of the pending command word (R29). -/
  pend : Word
  /-- What the host has still to do, the next operation first: an input of the model (R276). -/
  hostProgram : List HostOp
  /-- Whose step each of the coming steps is, the next one first (R64, R276). -/
  turns : List Turn
  /-- What the host has read, as offset and value, the latest first (R276's `HostRead(off) -> v`). -/
  readLog : List (Offset × Word)
  /-- How many free values have been drawn so far (R59). -/
  freeCount : Nat
  deriving DecidableEq, Repr

/-- Reasons the machine stops with a fault. There are none: the core never stalls, faults or refuses a bus access (R276), and a
failing command completes with an error code, which is a next state (R232, R237). Nobody raises a value of this type. -/
inductive Fault where
  deriving DecidableEq, Repr

/-- Reasons an instruction has no meaning. -/
inductive Refusal where
  /-- Raised by an arm of `exec` whose instruction is not modelled; safe, because the run stops. No arm raises it. -/
  | notModelled (mnemonic : String)
  deriving DecidableEq, Repr

/-- The machine right after reset (R20, R260). RK and PEND are unspecified there and are all zero here: DESIGN
CHOICE, unsafe (log 4). The host has nothing to do and no turn is planned; a program is an input, placed from outside: DESIGN
CHOICE, safe (log 6). -/
def State.reset : State where
  busy := false
  keyValid := false
  ovr := false
  err := 0
  result := 0
  stateReg := Vector.replicate 16 0
  keyReg := Vector.replicate 32 0
  rk := Vector.replicate 240 0
  pend := 0
  hostProgram := []
  turns := []
  readLog := []
  freeCount := 0

end Sys2Proof.Machine
end

