-- ==== Sys2Proof/Machine/Flags.lean ====
section
/-! DEFINITION. STATUS: its layout as read, the write that clears OVR, and the error codes. -/

namespace Sys2Proof.Machine

/-- The 4-bit code of each completion (R230). -/
def ErrCode.bits : ErrCode → BitVec 4
  | .ok => 0x0
  | .illegalCommand => 0x1
  | .invalidKeyLength => 0x2
  | .notInitialized => 0x3
  | .badRoundIndex => 0x4

/-- STATUS as read: `zext_32({ERR, 0b0000, OVR, 0b0, KEY_VALID, BUSY})` (R31). -/
def statusWord (s : State) : Word :=
  (s.err ++ (0 : BitVec 4) ++ BitVec.ofBool s.ovr ++ (0 : BitVec 1) ++ BitVec.ofBool s.keyValid ++
    BitVec.ofBool s.busy).setWidth 32

/-- A write to STATUS: a 1 in bit 3 clears OVR, and nothing else is written (R31, R53). -/
def writeStatus (v : Word) (s : State) : State :=
  if v.getLsbD 3 then { s with ovr := false } else s

/-- A dropped write sets the sticky overrun flag and changes nothing else (R23, R57). -/
def setOverrun (s : State) : State := { s with ovr := true }

end Sys2Proof.Machine
end

