-- ==== Sys2Proof/Machine/Operands.lean ====
section
/-! DEFINITION. The register space: which register an offset names, and the byte lanes of a bus word. -/

namespace Sys2Proof.Machine

/-- The register map by word index (R51). -/
def busRegOfIndex (w : Nat) : BusReg :=
  if w = 0 then .cmd
  else if w = 1 then .status
  else if w = 2 then .result
  else if h : 4 ≤ w ∧ w ≤ 7 then .state ⟨w - 4, by omega⟩
  else if h : 8 ≤ w ∧ w ≤ 15 then .key ⟨w - 8, by omega⟩
  else if h : 64 ≤ w ∧ w ≤ 123 then .rk ⟨w - 64, by omega⟩
  else .reserved

/-- The register an offset names: `w = off[8:2]`, and bits 1:0 are ignored (R51, R61). -/
def busReg (off : Offset) : BusReg := busRegOfIndex (off.extractLsb' 2 7).toNat

/-- Bits `[8k+7 : 8k]` of a bus word (R55). -/
def lane (v : Word) (k : Nat) : Byte := v.extractLsb' (8 * k) 8

/-- `LaneWord(A, base) = {A[base+3], A[base+2], A[base+1], A[base]}` (R52): the lowest index in the lowest lane (R55). -/
def laneWord {n : Nat} (A : Vector Byte n) (base : Nat) (h : base + 3 < n) : Word :=
  A[base + 3] ++ A[base + 2] ++ A[base + 1] ++ A[base]

/-- `for k in 0..3: A[base+k] <- v[8k+7:8k]` (R53). -/
def writeLanes {n : Nat} (A : Vector Byte n) (base : Nat) (v : Word) : Vector Byte n :=
  Vector.ofFn fun i => if base ≤ i.val ∧ i.val < base + 4 then lane v (i.val - base) else A[i]

end Sys2Proof.Machine
end

