-- ==== Sys2Proof/Machine/Ops.lean ====
section
/-! DEFINITION. The named updates every meaning and every access is made of. -/

namespace Sys2Proof.Machine

/-- What a completion answers. -/
abbrev Result := Host.Outcome State Fault Refusal

/-! ## How a command completes (R232, R233, R270) -/

/-- `raise CmdError(code)`: the core's one exception. It ends the completion step, writes STATUS.ERR and BUSY and changes
nothing else (R232): no register is saved, no mode changes and there is no vector (R237). No instruction returns from it;
the code stays until the next completion or reset (R238), so there is no return operation. -/
def raiseCmdError (c : ErrCode) (s : State) : State := { s with err := c.bits, busy := false }

/-- `ERR <- 0x0`, and BUSY falls in the same step (R233, R270). -/
def completeOk (s : State) : State := { s with err := ErrCode.ok.bits, busy := false }

/-- A successful byte command writes RESULT (R27, R88). -/
def finishByte (r : Byte) (s : State) : State := completeOk { s with result := r }

/-- A successful block command writes all of STATE (R24, R88). -/
def finishBlock (b : Block) (s : State) : State := completeOk { s with stateReg := b }

/-- A successful INIT writes all of RK and enters KeyExpanded (R22, R165). -/
def finishInit (w : Schedule) (s : State) : State := completeOk { s with rk := w, keyValid := true }

/-! ## What an access or the reset input writes -/

/-- A command is accepted: PEND and BUSY, nothing else (R54). -/
def acceptCommand (v : Word) (s : State) : State := { s with pend := v, busy := true }

/-- A write to STATEj while idle (R53). -/
def writeStateWord (j : Fin 4) (v : Word) (s : State) : State :=
  { s with stateReg := writeLanes s.stateReg (4 * j.val) v }

/-- A write to KEYj while idle (R53). -/
def writeKeyWord (j : Fin 8) (v : Word) (s : State) : State :=
  { s with keyReg := writeLanes s.keyReg (4 * j.val) v }

/-- A read whose value is specified is handed to the host; no register changes (R52, R63). -/
def logRead (off : Offset) (v : Word) (s : State) : State := { s with readLog := (off, v) :: s.readLog }

/-- A read of an unspecified value hands the host a fresh free value (R59). -/
def logFreeRead (off : Offset) (s : State) : State :=
  { s with readLog := (off, Config.freeRead s.freeCount) :: s.readLog, freeCount := s.freeCount + 1 }

/-- The reset input: every register of the core takes its reset value, and a pending command is gone (R260, R261). The host
agent is outside the core and goes on. DESIGN CHOICE, safe (log 5). -/
def resetCore (s : State) : State :=
  { State.reset with hostProgram := s.hostProgram, turns := s.turns, readLog := s.readLog, freeCount := s.freeCount }

/-- A command word pending, and the core's turn next: what the next step completes. DESIGN CHOICE, safe (log 6). -/
def placeCommand (cw : Word) (s : State) : State :=
  { s with pend := cw, busy := true, turns := .core :: s.turns }

end Sys2Proof.Machine
end

