-- ==== Sys2Proof/Machine/Bus.lean ====
section
/-! DEFINITION. The host bus: BusRead and BusWrite (R52, R53). Every offset and value is accepted (R276). -/

namespace Sys2Proof.Machine

/-- `BusRead(off)`: the word read, or `none` where R52 says `unspecified`. It changes no state. -/
def busRead (off : Offset) (s : State) : Option Word :=
  match busReg off with
  | .cmd => some 0
  | .status => some (statusWord s)
  | .result => if s.busy then none else some (s.result.setWidth 32)
  | .state j => if s.busy then none else some (laneWord s.stateReg (4 * j.val) (by omega))
  | .key _ => some 0
  | .rk i =>
    if !s.keyValid then some 0
    else if s.busy then none
    else some (laneWord s.rk (4 * i.val) (by omega))
  | .reserved => some 0

/-- `BusWrite(off, v)` (R53): a write to CMD, STATE or KEY while BUSY is dropped and sets OVR (R57); a write to RESULT, the RK
window or a reserved offset has no effect (R60). -/
def busWrite (off : Offset) (v : Word) (s : State) : State :=
  match busReg off with
  | .cmd => if s.busy then setOverrun s else acceptCommand v s
  | .status => writeStatus v s
  | .result => s
  | .state j => if s.busy then setOverrun s else writeStateWord j v s
  | .key j => if s.busy then setOverrun s else writeKeyWord j v s
  | .rk _ => s
  | .reserved => s

/-- HostRead(off) -> v: the host takes the word, a fresh free value where the read is unspecified (R59, R276). -/
def hostRead (off : Offset) (s : State) : State :=
  match busRead off s with
  | some v => logRead off v s
  | none => logFreeRead off s

end Sys2Proof.Machine
end

