-- ==== Sys2Proof/Syntax.lean ====
section
/-! DEFINITION. The commands of the core: one constructor for each row of the opcode table (R83). -/

namespace Sys2Proof

/-- A decoded command. The operands are the free fields of R83; block, key and schedule operands are registers (R81). -/
inductive Instr where
  /-- INIT, with the key length its KSZ field names. -/
  | init (ksz : KeySel)
  /-- ENCRYPT. -/
  | encrypt
  /-- DECRYPT. -/
  | decrypt
  /-- SUB_BYTES. -/
  | subBytes
  /-- INV_SUB_BYTES. -/
  | invSubBytes
  /-- SHIFT_ROWS. -/
  | shiftRows
  /-- INV_SHIFT_ROWS. -/
  | invShiftRows
  /-- MIX_COLUMNS. -/
  | mixColumns
  /-- INV_MIX_COLUMNS. -/
  | invMixColumns
  /-- ADD_ROUND_KEY, with the unsigned round index of its RIDX field. -/
  | addRoundKey (ridx : Nat)
  /-- GF_ADD. -/
  | gfAdd (a b : Byte)
  /-- GF_MUL. -/
  | gfMul (a b : Byte)
  /-- GF_INV. -/
  | gfInv (a : Byte)
  /-- SBOX_FWD. -/
  | sboxFwd (a : Byte)
  /-- SBOX_INV. -/
  | sboxInv (a : Byte)
  deriving DecidableEq, Repr

end Sys2Proof
end

