-- ==== Sys2Proof/WellFormed.lean ====
section
/-! DEFINITION. Which commands have an encoding: the bound on an operand that its type does not already give. -/

namespace Sys2Proof

/-- An instruction a command word can hold. RIDX is a 4-bit field, an index 0..15 (R81); 15 is well formed, and it completes
with BAD_ROUND_INDEX (R196). Every other operand is bounded by its type. -/
def Instr.wellFormed : Instr → Bool
  | .init _ => true
  | .encrypt => true
  | .decrypt => true
  | .subBytes => true
  | .invSubBytes => true
  | .shiftRows => true
  | .invShiftRows => true
  | .mixColumns => true
  | .invMixColumns => true
  | .addRoundKey ridx => decide (ridx < 16)
  | .gfAdd _ _ => true
  | .gfMul _ _ => true
  | .gfInv _ => true
  | .sboxFwd _ => true
  | .sboxInv _ => true

end Sys2Proof
end

