-- ==== Sys2Proof/Decode.lean ====
section
/-! DEFINITION. Command words: the opcode table of R83, the decoder of R85 and the encoder of R80. -/

namespace Sys2Proof

/-- Why a word selects no row of R83. Both complete with ILLEGAL_COMMAND (R230); the two names only tell R82's case from
R84's. DEDUCED, safe (log 9). -/
inductive IllegalWord where
  /-- Its OP is one of the reserved values (R84). -/
  | reservedOpcode
  /-- Its OP is defined and a bit that the row fixes to 0 is 1 (R82). -/
  | fixedBitSet
  deriving DecidableEq, Repr

/-- What decoding answers: an instruction, or a rejection by name (R85's `Opcode or Illegal`). -/
inductive Decoded where
  | instr (i : Instr)
  | illegal (why : IllegalWord)
  deriving DecidableEq, Repr

/-! ## Fields of a command word (R80, R81) -/

/-- OP, bits 4:0. -/
def fieldOp (cw : Word) : BitVec 5 := cw.extractLsb' 0 5

/-- RIDX, bits 11:8. -/
def fieldRidx (cw : Word) : BitVec 4 := cw.extractLsb' 8 4

/-- KSZ, bits 13:12. -/
def fieldKsz (cw : Word) : BitVec 2 := cw.extractLsb' 12 2

/-- A, bits 23:16. -/
def fieldA (cw : Word) : Byte := cw.extractLsb' 16 8

/-- B, bits 31:24. -/
def fieldB (cw : Word) : Byte := cw.extractLsb' 24 8

/-- KSZ as a name (R81). -/
def keySelOfBits (k : BitVec 2) : KeySel :=
  match k.toNat with
  | 0 => .bytes16
  | 1 => .bytes24
  | 2 => .bytes32
  | _ => .reservedSel

/-- The KSZ bits of a name (R81). -/
def keySelBits : KeySel → BitVec 2
  | .bytes16 => 0b00
  | .bytes24 => 0b01
  | .bytes32 => 0b10
  | .reservedSel => 0b11

/-! ## The table -/

/-- One row of R83: a word `cw` selects it exactly when `(cw AND mask) = value` (R82). -/
structure Row where
  value : Word
  mask : Word
  build : Word → Instr

/-- The defined opcodes, in the order of R83. -/
def opcodeTable : List Row :=
  [ ⟨0x00000001, 0xFFFFCFFF, fun cw => .init (keySelOfBits (fieldKsz cw))⟩,
    ⟨0x00000002, 0xFFFFFFFF, fun _ => .encrypt⟩,
    ⟨0x00000003, 0xFFFFFFFF, fun _ => .decrypt⟩,
    ⟨0x00000004, 0xFFFFFFFF, fun _ => .subBytes⟩,
    ⟨0x00000005, 0xFFFFFFFF, fun _ => .invSubBytes⟩,
    ⟨0x00000006, 0xFFFFFFFF, fun _ => .shiftRows⟩,
    ⟨0x00000007, 0xFFFFFFFF, fun _ => .invShiftRows⟩,
    ⟨0x00000008, 0xFFFFFFFF, fun _ => .mixColumns⟩,
    ⟨0x00000009, 0xFFFFFFFF, fun _ => .invMixColumns⟩,
    ⟨0x0000000A, 0xFFFFF0FF, fun cw => .addRoundKey (fieldRidx cw).toNat⟩ ] ++
  [ ⟨0x00000010, 0x0000FFFF, fun cw => .gfAdd (fieldA cw) (fieldB cw)⟩,
    ⟨0x00000011, 0x0000FFFF, fun cw => .gfMul (fieldA cw) (fieldB cw)⟩,
    ⟨0x00000012, 0xFF00FFFF, fun cw => .gfInv (fieldA cw)⟩,
    ⟨0x00000013, 0xFF00FFFF, fun cw => .sboxFwd (fieldA cw)⟩,
    ⟨0x00000014, 0xFF00FFFF, fun cw => .sboxInv (fieldA cw)⟩ ]

/-- A row is selected by a word (R82). -/
def Row.selects (r : Row) (cw : Word) : Bool := (cw &&& r.mask) == r.value

/-- Which of the two ways a rejected word is illegal: OP is an opcode of R83, or it is not (R82, R84). -/
def illegalReason (cw : Word) : IllegalWord :=
  if opcodeTable.any (fun r => fieldOp r.value == fieldOp cw) then .fixedBitSet else .reservedOpcode

/-- R85: total over all 2^32 words, the first row selected, otherwise illegal. -/
def decode (cw : Word) : Decoded :=
  match opcodeTable.find? (fun r => r.selects cw) with
  | some r => .instr (r.build cw)
  | none => .illegal (illegalReason cw)

/-! ## The encoder -/

/-- The CMD32 format, bit 31 on the left, with both reserved fields 0 (R80). -/
def packCommand (b a : Byte) (ksz : BitVec 2) (ridx : BitVec 4) (op : BitVec 5) : Word :=
  b ++ a ++ (0 : BitVec 2) ++ ksz ++ ridx ++ (0 : BitVec 3) ++ op

/-- The command word of an instruction: the fields its row of R83 lists, every other field 0 (R82). -/
def encode : Instr → Word
  | .init k => packCommand 0 0 (keySelBits k) 0 0x01
  | .encrypt => packCommand 0 0 0 0 0x02
  | .decrypt => packCommand 0 0 0 0 0x03
  | .subBytes => packCommand 0 0 0 0 0x04
  | .invSubBytes => packCommand 0 0 0 0 0x05
  | .shiftRows => packCommand 0 0 0 0 0x06
  | .invShiftRows => packCommand 0 0 0 0 0x07
  | .mixColumns => packCommand 0 0 0 0 0x08
  | .invMixColumns => packCommand 0 0 0 0 0x09
  | .addRoundKey r => packCommand 0 0 0 (BitVec.ofNat 4 r) 0x0A
  | .gfAdd a b => packCommand b a 0 0 0x10
  | .gfMul a b => packCommand b a 0 0 0x11
  | .gfInv a => packCommand 0 a 0 0 0x12
  | .sboxFwd a => packCommand 0 a 0 0 0x13
  | .sboxInv a => packCommand 0 a 0 0 0x14

/-- The instruction the decoder reads from a table word: a command is one 32-bit word in one bus write (R86), so the table's
bit numbers are the word's own; bits from `nbits` up are 0. -/
def decodeTableWord (nbits w : Nat) : Option Instr :=
  match decode (BitVec.ofNat 32 (w % 2 ^ nbits)) with
  | .instr i => some i
  | .illegal _ => none

end Sys2Proof
end

