-- ==== Sys2Proof/Machine/GfUnit.lean ====
section
/-! DEFINITION. The GF(2^8) arithmetic unit: addition, multiplication modulo 0x11B, the inverse and the 4x4 matrix product
(40_gf_arithmetic.md). It keeps no state between uses (R113). -/

namespace Sys2Proof.Machine

/-- Field addition (R102). -/
def gfAdd (a b : Byte) : Byte := a ^^^ b

/-- Multiplication by x (R105): what the multiplier does to `a` in each iteration of R104. -/
def xtime (a : Byte) : Byte := (a <<< 1) ^^^ (if a.getLsbD 7 then 0x1B else 0x00)

/-- The loop of R104, run `n` more times on the accumulator `p`. -/
def gfMulLoop : Nat → Byte → Byte → Byte → Byte
  | 0, p, _, _ => p
  | n + 1, p, a, b => gfMulLoop n (if b.getLsbD 0 then p ^^^ a else p) (xtime a) (b >>> 1)

/-- Field multiplication: eight iterations, the bits of `b` least significant first (R104). -/
def gfMul (a b : Byte) : Byte := gfMulLoop 8 0x00 a b

/-- The exhaustive search R107 writes out: 0 for 0, else the first `x` of 0x01..0xFF with `gf_mul(a, x) = 0x01`. -/
def gfInvSearch (a : Byte) : Byte :=
  if a = 0x00 then 0x00
  else ((List.range' 1 255).map (BitVec.ofNat 8)).find? (fun x => gfMul a x == 0x01) |>.getD 0x00

/-- The rows of the inverse table (95_test_vectors.md section 2.3): row `h`, its entry `_0` in the highest byte. -/
def gfInvRows : List (BitVec 128) :=
  [ 0x00018df6cb527bd1e84f29c0b0e1e5c7, 0x74b4aa4b992b605f583ffdccff40eeb2,
    0x3a6e5af1554da8c9c10a98153044a2c2, 0x2c45926cf3396642f235206f77bb5919,
    0x1dfe37672d31f569a764ab135425e909, 0xed5c05ca4c2487bf183e22f051ec6117,
    0x165eafd349a63643f44791df3393213b, 0x79b7978510b5ba3cb670d006a1fa8182,
    0x837e7f809673be569b9e95d9f702b9a4, 0xde6a326dd88a84722a149f88f9dc899a,
    0xfb7c2ec38fb8654826c8124acee7d262, 0x0ce01fef11757871a58e763dbdbc8657,
    0x0b282fa3dad4e40fa92753041bfcace6, 0x7a07ae63c5dbe2ea948bc4d59df8906b,
    0xb10dd6ebc60ecfad084ed7e35d501eb3, 0x5b2338346846038cdd9c7da0cd1a411c ]

/-- The multiplicative inverse, 0 for 0 (R107), read from the spec's own table, which R113 allows. DEDUCED, unsafe where the table
differs from `gfInvSearch`; that they agree on every byte is a statement of its own (log 7). -/
def gfInv (a : Byte) : Byte :=
  (gfInvRows.getD (a.toNat / 16) 0).extractLsb' (8 * (15 - a.toNat % 16)) 8

end Sys2Proof.Machine
end

