-- ==== Sys2Proof/Machine/SboxUnit.lean ====
section
/-! DEFINITION. The S-box unit: the affine maps and the two byte substitutions (41_sbox.md). It keeps no state (R136). -/

namespace Sys2Proof.Machine

/-- The 8-bit left rotation by `n` in 0..7 (R130). -/
def rotl8 (v : Byte) (n : Nat) : Byte := (v <<< n) ||| (v >>> (8 - n))

/-- The forward affine transform (R131). -/
def affine (v : Byte) : Byte := v ^^^ rotl8 v 1 ^^^ rotl8 v 2 ^^^ rotl8 v 3 ^^^ rotl8 v 4 ^^^ 0x63

/-- The inverse affine transform (R133). -/
def invAffine (y : Byte) : Byte := rotl8 y 1 ^^^ rotl8 y 3 ^^^ rotl8 y 6 ^^^ 0x05

/-- The forward S-box (R132). -/
def sbox (x : Byte) : Byte := affine (gfInv x)

/-- The inverse S-box (R134). -/
def invSbox (y : Byte) : Byte := gfInv (invAffine y)

end Sys2Proof.Machine
end

