-- ==== Sys2Proof/Machine/RoundUnit.lean ====
section
/-! DEFINITION. The round-transformation datapath (43_round_transforms.md): each function maps a 16-byte state to a new one. -/

namespace Sys2Proof.Machine

/-- `s[r][c]`, byte `4c + r` of a block (R24). -/
def blockAt (s : Block) (r c : Fin 4) : Byte := s[4 * c.val + r.val]

/-- The block with `s[r][c] = f r c` (R24). -/
def blockOf (f : Fin 4 → Fin 4 → Byte) : Block :=
  Vector.ofFn fun k => f ⟨k.val % 4, Nat.mod_lt _ (by decide)⟩ ⟨k.val / 4, by omega⟩

/-- A constant 4x4 matrix of field elements: its rows top to bottom, each row written as 8 hexadecimal digits, its entry for
column 0 first (R13's notation of four bytes). -/
abbrev Matrix4 := Vector Word 4

/-- `M[r][k]` (R109). -/
def matrixEntry (M : Matrix4) (r k : Fin 4) : Byte := M[r].extractLsb' (8 * (3 - k.val)) 8

/-- `gf_matmul(M, s)`: the constant matrix on the left, each entry the XOR of four field products from a zeroed accumulator
(R109; 90_conflicts.md C4). Every output byte is computed from the unchanged `s`. -/
def gfMatmul (M : Matrix4) (s : Block) : Block :=
  blockOf fun r c => ([0, 1, 2, 3] : List (Fin 4)).foldl (fun acc k => gfAdd acc (gfMul (matrixEntry M r k) (blockAt s k c))) 0x00

/-- `MF`, the forward matrix (R185). -/
def matrixForward : Matrix4 := #v[0x02030101, 0x01020301, 0x01010203, 0x03010102]

/-- `MI`, the inverse matrix, of the entries 0x0e, 0x0b, 0x0d and 0x09 (R185). -/
def matrixInverse : Matrix4 := #v[0x0e0b0d09, 0x090e0b0d, 0x0d090e0b, 0x0b0d090e]

/-- `sub_bytes` (R180). -/
def subBytes (s : Block) : Block := Vector.ofFn fun k => sbox s[k]

/-- `inv_sub_bytes` (R180). -/
def invSubBytes (s : Block) : Block := Vector.ofFn fun k => invSbox s[k]

/-- `shift_rows`: row `r` rotates left by `r`, the textbook rotation (R182, R184). -/
def shiftRows (s : Block) : Block := blockOf fun r c => blockAt s r (c + r)

/-- `inv_shift_rows`: row `r` rotates right by `r` (R183). The column index is taken modulo 4. -/
def invShiftRows (s : Block) : Block := blockOf fun r c => blockAt s r (c - r)

/-- `mix_columns` (R186). -/
def mixColumns (s : Block) : Block := gfMatmul matrixForward s

/-- `inv_mix_columns` (R186). -/
def invMixColumns (s : Block) : Block := gfMatmul matrixInverse s

/-- Round key `r`, `r` in 0..14: bytes `16r` to `16r + 15` of the schedule (R26). -/
def roundKey (w : Schedule) (r : Fin 15) : Block := Vector.ofFn fun j => w[16 * r.val + j.val]

/-- `add_round_key(s, RK, r)` (R187). -/
def addRoundKey (s : Block) (w : Schedule) (r : Fin 15) : Block :=
  Vector.ofFn fun j => s[j] ^^^ w[16 * r.val + j.val]

end Sys2Proof.Machine
end

