-- ==== Sys2Proof/Machine/CipherUnit.lean ====
section
/-! DEFINITION. The block-cipher sequencer (44_block_cipher.md): Nr = 14 rounds, always in the same order (R209). -/

namespace Sys2Proof.Machine

/-- The rounds between the first key addition and the final round, `1..13` (R205). -/
def middleRounds : List (Fin 15) := [1, 2, 3, 4, 5, 6, 7, 8, 9, 10, 11, 12, 13]

/-- One full round of R205. -/
def encryptRound (w : Schedule) (s : Block) (r : Fin 15) : Block :=
  addRoundKey (mixColumns (shiftRows (subBytes s))) w r

/-- `encrypt_block(s, RK)`; the final round has no column mixing (R205). -/
def encryptBlock (s : Block) (w : Schedule) : Block :=
  let mid := middleRounds.foldl (encryptRound w) (addRoundKey s w 0)
  addRoundKey (shiftRows (subBytes mid)) w 14

/-- One full round of R206. -/
def decryptRound (w : Schedule) (s : Block) (r : Fin 15) : Block :=
  invMixColumns (addRoundKey (invSubBytes (invShiftRows s)) w r)

/-- `decrypt_block(s, RK)`: the rounds run from 13 down to 1 (R206). -/
def decryptBlock (s : Block) (w : Schedule) : Block :=
  let mid := middleRounds.reverse.foldl (decryptRound w) (addRoundKey s w 14)
  addRoundKey (invSubBytes (invShiftRows mid)) w 0

end Sys2Proof.Machine
end

