-- ==== Sys2Proof/Machine/CipherCommands.lean ====
section
/-! DEFINITION. ENCRYPT and DECRYPT at their completion (R210, R211). -/

namespace Sys2Proof.Machine

/-- ENCRYPT: NOT_INITIALIZED without a context, else STATE is encrypted in place under RK (R210). -/
def execEncrypt (s : State) : Result :=
  if s.keyValid then .next (finishBlock (encryptBlock s.stateReg s.rk) s)
  else .next (raiseCmdError .notInitialized s)

/-- DECRYPT: NOT_INITIALIZED without a context, else STATE is decrypted in place under RK (R211). -/
def execDecrypt (s : State) : Result :=
  if s.keyValid then .next (finishBlock (decryptBlock s.stateReg s.rk) s)
  else .next (raiseCmdError .notInitialized s)

end Sys2Proof.Machine
end

