-- ==== Sys2Proof/Machine/GfCommands.lean ====
section
/-! DEFINITION. GF_ADD, GF_MUL and GF_INV at their completion (R110 to R112). No operand value is an error. -/

namespace Sys2Proof.Machine

/-- GF_ADD: `RESULT <- gf_add(A, B); ERR <- 0x0` (R110). -/
def execGfAdd (a b : Byte) (s : State) : Result := .next (finishByte (gfAdd a b) s)

/-- GF_MUL: `RESULT <- gf_mul(A, B); ERR <- 0x0` (R111). -/
def execGfMul (a b : Byte) (s : State) : Result := .next (finishByte (gfMul a b) s)

/-- GF_INV: `RESULT <- gf_inv(A); ERR <- 0x0` (R112). -/
def execGfInv (a : Byte) (s : State) : Result := .next (finishByte (gfInv a) s)

end Sys2Proof.Machine
end

