-- ==== Sys2Proof/Machine/KeyUnit.lean ====
section
/-! DEFINITION. The key-schedule expander (42_key_schedule.md). -/

namespace Sys2Proof.Machine

/-- Bytewise XOR of two words (R150). -/
def xorWord (w v : KeyWord) : KeyWord := ⟨w.w0 ^^^ v.w0, w.w1 ^^^ v.w1, w.w2 ^^^ v.w2, w.w3 ^^^ v.w3⟩

/-- Each byte moves to the next lower index, `w0` to the highest (R151). -/
def rotWord (w : KeyWord) : KeyWord := ⟨w.w1, w.w2, w.w3, w.w0⟩

/-- Each byte through the forward S-box (R153). -/
def subWord (w : KeyWord) : KeyWord := ⟨sbox w.w0, sbox w.w1, sbox w.w2, sbox w.w3⟩

/-- The round constants, indexed 0..10 (R152). The expansion reads entries 1 to 7 only (R156). -/
def rcon : Vector Byte 11 := #v[0x8d, 0x01, 0x02, 0x04, 0x08, 0x10, 0x20, 0x40, 0x80, 0x1b, 0x36]

/-- The round constant enters the first byte of a word (R154). -/
def addRcon (w : KeyWord) (j : Nat) : KeyWord := { w with w0 := w.w0 ^^^ rcon.getD j 0 }

/-- R154's `temp` for word `i`, from word `i - 1`: every eighth word is rotated, substituted and takes the round constant
`i div 8` (90_conflicts.md C8); the word half way between is only substituted. -/
def scheduleTemp (i : Nat) (prev : KeyWord) : KeyWord :=
  if i % 8 = 0 then addRcon (subWord (rotWord prev)) (i / 8)
  else if i % 8 = 4 then subWord prev
  else prev

/-- Word `j` of the raw key, `j` in 0..7 (R150). -/
def rawKeyWord (K : KeyBytes) (j : Fin 8) : KeyWord :=
  ⟨K[4 * j.val], K[4 * j.val + 1], K[4 * j.val + 2], K[4 * j.val + 3]⟩

/-- Step 1 of R154: the raw key is words 0 to 7. -/
def rawKeyWords (K : KeyBytes) : List KeyWord := (List.finRange 8).map (rawKeyWord K)

/-- Step 2 of R154: `n` more words, the next one with index `i`, after the words `W` so far. -/
def expandLoop : Nat → Nat → List KeyWord → List KeyWord
  | 0, _, W => W
  | n + 1, i, W =>
    expandLoop n (i + 1) (W ++ [xorWord (W.getD (i - 8) ⟨0, 0, 0, 0⟩) (scheduleTemp i (W.getD (i - 1) ⟨0, 0, 0, 0⟩))])

/-- The 60 schedule words of a key: the loop runs for `i` in 8..59 (R154). -/
def expandWords (K : KeyBytes) : List KeyWord := expandLoop 52 8 (rawKeyWords K)

/-- Byte `k` of a word, `k` in 0..3 (R150). -/
def keyWordByte (w : KeyWord) (k : Nat) : Byte :=
  match k with
  | 0 => w.w0
  | 1 => w.w1
  | 2 => w.w2
  | _ => w.w3

/-- `expand_key(K)`: byte `4i + j` of the schedule is byte `j` of word `i` (R154). -/
def expandKey (K : KeyBytes) : Schedule :=
  let W := expandWords K
  Vector.ofFn fun k => keyWordByte (W.getD (k.val / 4) ⟨0, 0, 0, 0⟩) (k.val % 4)

/-- Schedule word `i` as it stands in RK (R150). -/
def scheduleWord (w : Schedule) (i : Fin 60) : KeyWord :=
  ⟨w[4 * i.val], w[4 * i.val + 1], w[4 * i.val + 2], w[4 * i.val + 3]⟩

end Sys2Proof.Machine
end

