-- ==== Sys2Proof/Machine/KeyCommands.lean ====
section
/-! DEFINITION. INIT at its completion (R165). -/

namespace Sys2Proof.Machine

/-- INIT: any key length but 32 bytes raises INVALID_KEY_LENGTH and leaves RK and KEY_VALID alone; otherwise the key in KEY is
expanded into all of RK and the context becomes KeyExpanded, whatever it was before (R165, R32). -/
def execInit (ksz : KeySel) (s : State) : Result :=
  if ksz = .bytes32 then .next (finishInit (expandKey s.keyReg) s)
  else .next (raiseCmdError .invalidKeyLength s)

end Sys2Proof.Machine
end

