-- ==== Sys2Proof/Machine/RoundCommands.lean ====
section
/-! DEFINITION. The seven round commands at their completion (R190 to R196). All but ADD_ROUND_KEY run in either context
state (R234). -/

namespace Sys2Proof.Machine

/-- SUB_BYTES (R190). -/
def execSubBytes (s : State) : Result := .next (finishBlock (subBytes s.stateReg) s)

/-- INV_SUB_BYTES (R191). -/
def execInvSubBytes (s : State) : Result := .next (finishBlock (invSubBytes s.stateReg) s)

/-- SHIFT_ROWS (R192). -/
def execShiftRows (s : State) : Result := .next (finishBlock (shiftRows s.stateReg) s)

/-- INV_SHIFT_ROWS (R193). -/
def execInvShiftRows (s : State) : Result := .next (finishBlock (invShiftRows s.stateReg) s)

/-- MIX_COLUMNS (R194). -/
def execMixColumns (s : State) : Result := .next (finishBlock (mixColumns s.stateReg) s)

/-- INV_MIX_COLUMNS (R195). -/
def execInvMixColumns (s : State) : Result := .next (finishBlock (invMixColumns s.stateReg) s)

/-- ADD_ROUND_KEY: the operand range is checked before the context state (R196, R233). An index of 16 or more has no encoding and
fails the same range check: DESIGN CHOICE, safe (log 10). -/
def execAddRoundKey (ridx : Nat) (s : State) : Result :=
  if h : ridx ≤ 14 then
    if s.keyValid then .next (finishBlock (addRoundKey s.stateReg s.rk ⟨ridx, by omega⟩) s)
    else .next (raiseCmdError .notInitialized s)
  else .next (raiseCmdError .badRoundIndex s)

end Sys2Proof.Machine
end

