-- ==== Sys2Proof/Machine/SboxCommands.lean ====
section
/-! DEFINITION. SBOX_FWD and SBOX_INV at their completion (R140, R141). No operand value is an error. -/

namespace Sys2Proof.Machine

/-- SBOX_FWD: `RESULT <- sbox(A); ERR <- 0x0` (R140). -/
def execSboxFwd (a : Byte) (s : State) : Result := .next (finishByte (sbox a) s)

/-- SBOX_INV: `RESULT <- inv_sbox(A); ERR <- 0x0` (R141). -/
def execSboxInv (a : Byte) (s : State) : Result := .next (finishByte (invSbox a) s)

end Sys2Proof.Machine
end

