-- ==== Sys2Proof/Machine/Complete.lean ====
section
/-! DEFINITION. The core's own step: the completion of the pending command (R270). -/

namespace Sys2Proof.Machine

/-- `Execute(PEND)` with BUSY falling in the same step: a word that decodes to no command raises ILLEGAL_COMMAND, any other
word does what its command says (R233, R270). -/
def execute (s : State) : Result :=
  match Sys2Proof.decode s.pend with
  | .instr i => exec i s
  | .illegal _ => .next (raiseCmdError .illegalCommand s)

/-- Complete, enabled only while BUSY = 1 (R270, R276); otherwise the core has no step and nothing changes (R277).
DESIGN CHOICE, safe (log 8). -/
def complete (s : State) : Result := if s.busy then execute s else .next s

end Sys2Proof.Machine
end

