-- ==== Sys2Proof/Machine/Agents.lean ====
section
/-! DEFINITION. The two agents and the reset input, and which of them takes the next step (R276). -/

namespace Sys2Proof.Machine

/-- BUSY as a STATUS read shows it: bit 0 of the word (R31). -/
def statusShowsBusy (s : State) : Bool := (statusWord s).getLsbD 0

/-- The offset of STATUS (R51). -/
def statusOffset : Offset := 0x004

/-- The host's next access. `waitIdle` is one turn of R92's polling loop: it reads STATUS and stays while BUSY reads 1. A host
with nothing left to do lets its turn pass. DESIGN CHOICE, safe (log 2, 8). -/
def hostTurn (s : State) : State :=
  match s.hostProgram with
  | [] => s
  | .write off v :: rest => busWrite off v { s with hostProgram := rest }
  | .read off :: rest => hostRead off { s with hostProgram := rest }
  | .waitIdle :: rest =>
    if statusShowsBusy s then hostRead statusOffset s
    else hostRead statusOffset { s with hostProgram := rest }

/-- One step of the machine (R276). `turns` says whose it is; where it says nothing, the core completes a pending command
before the host goes on, so a pending command always completes (weak fairness, R275). DESIGN CHOICE,
unsafe for a claim about a run with no turn planned (log 1). -/
def takeTurn (s : State) : Result :=
  match s.turns with
  | [] => if s.busy then complete s else .next (hostTurn s)
  | .host :: rest => .next (hostTurn { s with turns := rest })
  | .core :: rest => complete { s with turns := rest }
  | .reset :: rest => .next (resetCore { s with turns := rest })

end Sys2Proof.Machine
end

