-- ==== Sys2Proof/Machine/Assembler.lean ====
section
/-! DEFINITION. The command syntax of R90 and the host pseudo-instructions of R92, as data: what each writes and reads. -/

namespace Sys2Proof.Machine

/-- The command syntax of R90. -/
inductive AsmCommand where
  | init
  | init128
  | init192
  | init256
  | encrypt
  | decrypt
  | subBytes
  | invSubBytes
  | shiftRows
  | invShiftRows
  | mixColumns
  | invMixColumns
  | addRoundKey (r : Fin 16)
  | gfAdd (a b : Byte)
  | gfMul (a b : Byte)
  | gfInv (a : Byte)
  | sbox (a : Byte)
  | invSbox (a : Byte)
  /-- `.word v`, the raw 32-bit value. -/
  | word (v : Word)
  deriving DecidableEq, Repr

/-- The word a command assembles to (R90). -/
def AsmCommand.assemble : AsmCommand → Word
  | .init => encode (.init .bytes32)
  | .init128 => encode (.init .bytes16)
  | .init192 => encode (.init .bytes24)
  | .init256 => encode (.init .bytes32)
  | .encrypt => encode .encrypt
  | .decrypt => encode .decrypt
  | .subBytes => encode .subBytes
  | .invSubBytes => encode .invSubBytes
  | .shiftRows => encode .shiftRows
  | .invShiftRows => encode .invShiftRows
  | .mixColumns => encode .mixColumns
  | .invMixColumns => encode .invMixColumns
  | .addRoundKey r => encode (.addRoundKey r.val)
  | .gfAdd a b => encode (.gfAdd a b)
  | .gfMul a b => encode (.gfMul a b)
  | .gfInv a => encode (.gfInv a)
  | .sbox a => encode (.sboxFwd a)
  | .invSbox a => encode (.sboxInv a)
  | .word v => v

/-- `cmd X` is `wr 0x000, <word>` (R91). -/
def cmd (x : AsmCommand) : List HostOp := [.write 0x000 x.assemble]

/-- `run X`: issue, wait, then read STATUS.ERR (R92). -/
def run (x : AsmCommand) : List HostOp := cmd x ++ [.waitIdle, .read 0x004]

/-- `load_state S` (R92). -/
def loadState (b : Block) : List HostOp :=
  [ .write 0x010 (laneWord b 0 (by decide)), .write 0x014 (laneWord b 4 (by decide)),
    .write 0x018 (laneWord b 8 (by decide)), .write 0x01C (laneWord b 12 (by decide)) ]

/-- `read_state` (R92). -/
def readState : List HostOp := [.read 0x010, .read 0x014, .read 0x018, .read 0x01C]

/-- `load_key K`: `wr 0x020 + 4j, LaneWord(K, 4j)` for j in 0..7 (R92). -/
def loadKey (K : KeyBytes) : List HostOp :=
  (List.finRange 8).map fun j => .write (BitVec.ofNat 9 (0x020 + 4 * j.val)) (laneWord K (4 * j.val) (by omega))

/-- `clear_ovr` (R92). -/
def clearOvr : List HostOp := [.write 0x004 0x00000008]

/-- `init_key K` (R92). -/
def initKey (K : KeyBytes) : List HostOp := loadKey K ++ run .init

/-- `encrypt_block S` (R92). -/
def encryptBlockOps (b : Block) : List HostOp := loadState b ++ run .encrypt ++ readState

/-- `decrypt_block S` (R92). -/
def decryptBlockOps (b : Block) : List HostOp := loadState b ++ run .decrypt ++ readState

end Sys2Proof.Machine
end

