-- ==== Sys2Proof/Machine/Step.lean ====
section
/-! DEFINITION. The machine's step, and where a command to be run is placed. -/

namespace Sys2Proof.Machine

/-- One step: the next agent's (R276). -/
def step (s : State) : Host.Outcome State Fault Refusal := takeTurn s

/-- The command word stands pending in PEND with the core's turn next: the core has no program memory (R33), and this is
where its next instruction is taken from (R54, R270; log 6). -/
def State.withFetchWord (s : State) (nbits w : Nat) : State := placeCommand (BitVec.ofNat 32 (w % 2 ^ nbits)) s

end Sys2Proof.Machine
end

