-- ==== Sys2Proof/Safety.lean ====
section
/-! DEFINITION. What counts as a safe run, and the words the claims are made of: whose step it is, which host accesses keep the
busy rule, the machine's invariant, and when two states look the same to a host. -/

namespace Sys2Proof.Machine

/-! ## Whose step it is -/

/-- The next step is the completion of the pending command (R270). -/
def completesNow (s : State) : Bool :=
  match s.turns with
  | [] => s.busy
  | .core :: _ => s.busy
  | .host :: _ => false
  | .reset :: _ => false

/-- The next step is the reset input's (R260). -/
def resetsNow (s : State) : Bool :=
  match s.turns with
  | .reset :: _ => true
  | .host :: _ => false
  | .core :: _ => false
  | [] => false

/-- The host operation the next step takes, if it is the host's step and the host has one. -/
def hostOpNow (s : State) : Option HostOp :=
  match s.turns with
  | [] => if s.busy then none else s.hostProgram.head?
  | .host :: _ => s.hostProgram.head?
  | .core :: _ => none
  | .reset :: _ => none

/-- The next step is a host write to a register that satisfies `p`. -/
def writesNow (p : BusReg → Bool) (s : State) : Bool :=
  match hostOpNow s with
  | some (.write off _) => p (busReg off)
  | some (.read _) => false
  | some .waitIdle => false
  | none => false

/-- CMD. -/
def isCmd : BusReg → Bool
  | .cmd => true
  | .status => false
  | .result => false
  | .state _ => false
  | .key _ => false
  | .rk _ => false
  | .reserved => false

/-- STATUS. -/
def isStatus : BusReg → Bool
  | .status => true
  | .cmd => false
  | .result => false
  | .state _ => false
  | .key _ => false
  | .rk _ => false
  | .reserved => false

/-- One of STATE0..STATE3. -/
def isState : BusReg → Bool
  | .state _ => true
  | .cmd => false
  | .status => false
  | .result => false
  | .key _ => false
  | .rk _ => false
  | .reserved => false

/-- One of KEY0..KEY7. -/
def isKey : BusReg → Bool
  | .key _ => true
  | .cmd => false
  | .status => false
  | .result => false
  | .state _ => false
  | .rk _ => false
  | .reserved => false

/-- A register whose write is dropped while BUSY = 1 (R57). -/
def droppedWhenBusy (r : BusReg) : Bool := isCmd r || isState r || isKey r

/-- A register that shows a command's result, which the host must not read before BUSY = 0 (R272). -/
def showsResult : BusReg → Bool
  | .result => true
  | .state _ => true
  | .rk _ => true
  | .cmd => false
  | .status => false
  | .key _ => false
  | .reserved => false

/-- The next step is a host write to STATUS with bit 3 = 1, the one write that clears OVR (R23, R31). -/
def clearsOverrunNow (s : State) : Bool :=
  match hostOpNow s with
  | some (.write off v) => isStatus (busReg off) && v.getLsbD 3
  | some (.read _) => false
  | some .waitIdle => false
  | none => false

/-! ## Safe runs -/

/-- A host operation that keeps the busy rule (R272): while BUSY = 1 it neither reads a result register nor writes one of
CMD, STATE and KEY. -/
def keepsBusyRule (op : HostOp) (s : State) : Bool :=
  !s.busy ||
    match op with
    | .write off _ => !droppedWhenBusy (busReg off)
    | .read off => !showsResult (busReg off)
    | .waitIdle => true

/-- A step is safe when it answers a next state, and a host operation it takes keeps the busy rule. -/
def SafeStep (s : State) : Prop :=
  (∃ t, step s = .next t) ∧ ∀ op, hostOpNow s = some op → keepsBusyRule op s = true

/-- The core is quiescent: no step of its own is enabled (R277). -/
def quiescent (s : State) : Bool := !s.busy

/-! ## The invariant -/

/-- A completion code of R230; 0x5 to 0xF are never written. -/
def legalErr (e : BitVec 4) : Bool := decide (e.toNat ≤ 4)

/-- STATUS.ERR is a code of R230, and a context that is KeyExpanded holds the expansion of some key (R26, R32). -/
def State.Inv (s : State) : Prop :=
  legalErr s.err = true ∧ (s.keyValid = true → ∃ K, s.rk = expandKey K)

/-! ## What a host can tell apart -/

/-- Two states that agree on everything but RK while Uninitialized (R26) and PEND while idle (R29). -/
def Indistinguishable (s t : State) : Prop :=
  t = { s with rk := t.rk, pend := t.pend } ∧
    (s.keyValid = true → t.rk = s.rk) ∧ (s.busy = true → t.pend = s.pend)

/-! ## The notation of the spec's worked values -/

/-- A block written as one number: 32 hexadecimal digits, byte 0 first (R13). -/
def hexBlock (n : BitVec 128) : Block := Vector.ofFn fun k => n.extractLsb' (8 * (15 - k.val)) 8

/-- The key bytes `00 01 02 .. 1f` (R13). -/
def countingKey : KeyBytes := Vector.ofFn fun k => BitVec.ofNat 8 k.val

/-- The block `S0` the rules of 43_round_transforms.md take their examples on. -/
def exampleBlock : Block := hexBlock 0x00112233445566778899aabbccddeeff

/-! ## Commands in a row -/

/-- Commands completed one after another, stopping at the first that does not answer a next state. -/
def execAll : List Instr → State → Result
  | [], s => .next s
  | i :: rest, s =>
    match exec i s with
    | .next t => execAll rest t
    | .fault r => .fault r
    | .refused r => .refused r

/-- ENCRYPT written out as round commands, in the order of R205 (R242). -/
def encryptCommands : List Instr :=
  [.addRoundKey 0] ++
    (List.range' 1 13).flatMap (fun r => [.subBytes, .shiftRows, .mixColumns, .addRoundKey r]) ++
    [.subBytes, .shiftRows, .addRoundKey 14]

/-- DECRYPT written out as round commands, in the order of R206 (R242). -/
def decryptCommands : List Instr :=
  [.addRoundKey 14] ++
    (List.range' 1 13).reverse.flatMap (fun r => [.invShiftRows, .invSubBytes, .addRoundKey r, .invMixColumns]) ++
    [.invShiftRows, .invSubBytes, .addRoundKey 0]

/-- While pending, a word that `mask` and `value` select runs the command `build` reads from it, and a word with the same
opcode that they do not select raises ILLEGAL_COMMAND and changes nothing else (R82, R270). -/
def RowRuns (value mask : Word) (build : Word → Instr) : Prop :=
  ∀ s : State, s.busy = true →
    (s.pend &&& mask = value → complete s = exec (build s.pend) s) ∧
    (s.pend &&& 0x1F = value &&& 0x1F → s.pend &&& mask ≠ value →
      complete s = .next { s with err := 0x1, busy := false })

end Sys2Proof.Machine
end

