-- ==== Sys2Proof/Certificates/Slice0/Obligations.lean ====
section
/-! DEFINITION. The statements for the provers. Each docstring names the rule of spec/ it formalises. -/

open Sys2Proof Sys2Proof.Machine

/-! ## Encoding -/

/-- Decoding the encoding of a well-formed command gives it back, for every operand value (R80 to R83). -/
def Obligations.DecodeInvertsEncode : Prop :=
  ∀ i : Instr, i.wellFormed = true → decode (encode i) = .instr i

/-- A word that decodes is the encoding of what it decodes to, and that command is well formed: one meaning a word (R82, R85). -/
def Obligations.DecodedWordReencodes : Prop :=
  ∀ (cw : Word) (i : Instr), decode cw = .instr i → i.wellFormed = true ∧ encode i = cw

/-- R82 and R83: a word selects an opcode row exactly when `(cw AND mask) = match`, with the operands at the bit positions of
R81; and a word with a defined OP that selects no row completes with ILLEGAL_COMMAND and no other effect. -/
def Obligations.TableRowsSelectWords : Prop :=
  (∀ cw : Word,
    (∀ k, decode cw = .instr (.init k) ↔ cw &&& 0xFFFFCFFF = 0x00000001 ∧
      ((k = .bytes16 ∧ cw.extractLsb' 12 2 = 0b00) ∨ (k = .bytes24 ∧ cw.extractLsb' 12 2 = 0b01) ∨
        (k = .bytes32 ∧ cw.extractLsb' 12 2 = 0b10) ∨ (k = .reservedSel ∧ cw.extractLsb' 12 2 = 0b11))) ∧
    (decode cw = .instr .encrypt ↔ cw &&& 0xFFFFFFFF = 0x00000002) ∧
    (decode cw = .instr .decrypt ↔ cw &&& 0xFFFFFFFF = 0x00000003) ∧
    (decode cw = .instr .subBytes ↔ cw &&& 0xFFFFFFFF = 0x00000004) ∧
    (decode cw = .instr .invSubBytes ↔ cw &&& 0xFFFFFFFF = 0x00000005) ∧
    (decode cw = .instr .shiftRows ↔ cw &&& 0xFFFFFFFF = 0x00000006) ∧
    (decode cw = .instr .invShiftRows ↔ cw &&& 0xFFFFFFFF = 0x00000007) ∧
    (decode cw = .instr .mixColumns ↔ cw &&& 0xFFFFFFFF = 0x00000008) ∧
    (decode cw = .instr .invMixColumns ↔ cw &&& 0xFFFFFFFF = 0x00000009) ∧
    (∀ r, decode cw = .instr (.addRoundKey r) ↔ cw &&& 0xFFFFF0FF = 0x0000000A ∧ r = (cw.extractLsb' 8 4).toNat) ∧
    (∀ a b, decode cw = .instr (.gfAdd a b) ↔
      cw &&& 0x0000FFFF = 0x00000010 ∧ a = cw.extractLsb' 16 8 ∧ b = cw.extractLsb' 24 8) ∧
    (∀ a b, decode cw = .instr (.gfMul a b) ↔
      cw &&& 0x0000FFFF = 0x00000011 ∧ a = cw.extractLsb' 16 8 ∧ b = cw.extractLsb' 24 8) ∧
    (∀ a, decode cw = .instr (.gfInv a) ↔ cw &&& 0xFF00FFFF = 0x00000012 ∧ a = cw.extractLsb' 16 8) ∧
    (∀ a, decode cw = .instr (.sboxFwd a) ↔ cw &&& 0xFF00FFFF = 0x00000013 ∧ a = cw.extractLsb' 16 8) ∧
    (∀ a, decode cw = .instr (.sboxInv a) ↔ cw &&& 0xFF00FFFF = 0x00000014 ∧ a = cw.extractLsb' 16 8)) ∧
  (∀ s : State, s.busy = true →
    (s.pend.extractLsb' 0 5).toNat ∈ [0x01, 0x02, 0x03, 0x04, 0x05, 0x06, 0x07, 0x08, 0x09, 0x0A, 0x10, 0x11, 0x12, 0x13, 0x14] →
    (∀ i, decode s.pend ≠ .instr i) →
      complete s = .next { s with err := 0x1, busy := false })

/-- R84: a word with a reserved OP completes with ILLEGAL_COMMAND and no other effect, whatever its other bits are. -/
def Obligations.ReservedOpcodesAreIllegal : Prop :=
  ∀ s : State, s.busy = true →
    ((s.pend.extractLsb' 0 5).toNat = 0x00 ∨
      (0x0B ≤ (s.pend.extractLsb' 0 5).toNat ∧ (s.pend.extractLsb' 0 5).toNat ≤ 0x0F) ∨
      (0x15 ≤ (s.pend.extractLsb' 0 5).toNat ∧ (s.pend.extractLsb' 0 5).toNat ≤ 0x1F)) →
      complete s = .next { s with err := 0x1, busy := false }

/-- Words written out from the bit patterns of R83 and from 95_test_vectors.md section 2.8 decode to what they stand for. The spec's
Decode answers one Illegal (R85); which of the two names a rejected word gets is the model's own (log 9). -/
def Obligations.SampleWordsDecode : Prop :=
  decode 0x00002001 = .instr (.init .bytes32) ∧ decode 0x00003001 = .instr (.init .reservedSel) ∧
  decode 0x00000003 = .instr .decrypt ∧ decode 0x00000009 = .instr .invMixColumns ∧
  decode 0x00000E0A = .instr (.addRoundKey 14) ∧ decode 0x83570011 = .instr (.gfMul 0x57 0x83) ∧
  decode 0x00ED0014 = .instr (.sboxInv 0xED) ∧ decode 0x01000012 = .illegal .fixedBitSet ∧
  decode 0x00000015 = .illegal .reservedOpcode

/-! ## The commands: encoding, effect, errors and everything left unchanged -/

/-- R110 and R111: GF_ADD and GF_MUL at completion. Every operand pair succeeds and writes RESULT, ERR and BUSY only; the
operands are cw[23:16] and cw[31:24]; a 1 in cw[15:5] is ILLEGAL_COMMAND. -/
def Obligations.GfAddAndGfMulCommands : Prop :=
  (∀ (a b : Byte) (s : State),
    exec (.gfAdd a b) s = .next { s with result := a ^^^ b, err := 0x0, busy := false } ∧
    exec (.gfMul a b) s = .next { s with result := gfMul a b, err := 0x0, busy := false }) ∧
  RowRuns 0x00000010 0x0000FFFF (fun cw => .gfAdd (cw.extractLsb' 16 8) (cw.extractLsb' 24 8)) ∧
  RowRuns 0x00000011 0x0000FFFF (fun cw => .gfMul (cw.extractLsb' 16 8) (cw.extractLsb' 24 8)) ∧
  (∀ a b : Byte, gfMul a b = gfMul b a ∧ gfMul a 0x00 = 0x00 ∧ gfMul 0x00 b = 0x00 ∧ gfMul a 0x01 = a) ∧
  gfMul 0x80 0x02 = 0x1B ∧ gfMul 0xFF 0xFF = 0x13 ∧ gfMul 0x57 0x83 = 0xC1

/-- R112: GF_INV at completion. The result is 0 for A = 0 and otherwise a byte whose product with A is 1; RESULT, ERR and
BUSY are the only registers written. -/
def Obligations.GfInvCommand : Prop :=
  (∀ (a : Byte) (s : State), ∃ x : Byte,
    exec (.gfInv a) s = .next { s with result := x, err := 0x0, busy := false } ∧ x = gfInv a ∧
    (a = 0x00 → x = 0x00) ∧ (a ≠ 0x00 → gfMul a x = 0x01)) ∧
  RowRuns 0x00000012 0xFF00FFFF (fun cw => .gfInv (cw.extractLsb' 16 8)) ∧
  gfInv 0x01 = 0x01 ∧ gfInv 0x02 = 0x8D ∧ gfInv 0xFF = 0x1C ∧ gfInv 0x53 = 0xCA

/-- R140 and R141: SBOX_FWD and SBOX_INV at completion, for every operand; SBOX_INV of an SBOX_FWD result is the operand
again. RESULT, ERR and BUSY are the only registers written. -/
def Obligations.SboxCommands : Prop :=
  (∀ (a : Byte) (s : State),
    exec (.sboxFwd a) s = .next { s with result := sbox a, err := 0x0, busy := false } ∧
    exec (.sboxInv a) s = .next { s with result := invSbox a, err := 0x0, busy := false } ∧
    exec (.sboxInv (sbox a)) s = .next { s with result := a, err := 0x0, busy := false }) ∧
  RowRuns 0x00000013 0xFF00FFFF (fun cw => .sboxFwd (cw.extractLsb' 16 8)) ∧
  RowRuns 0x00000014 0xFF00FFFF (fun cw => .sboxInv (cw.extractLsb' 16 8)) ∧
  sbox 0x00 = 0x63 ∧ sbox 0x01 = 0x7C ∧ sbox 0xFF = 0x16 ∧ sbox 0x53 = 0xED ∧
  invSbox 0x63 = 0x00 ∧ invSbox 0x00 = 0x52 ∧ invSbox 0x7C = 0x01 ∧ invSbox 0xFF = 0x7D ∧ invSbox 0xED = 0x53

/-- R165: INIT. With KSZ = 0b10 it expands KEY into all of RK and sets KEY_VALID, in either context state; with any other KSZ
it raises INVALID_KEY_LENGTH and only ERR and BUSY change. -/
def Obligations.InitCommand : Prop :=
  (∀ s : State,
    exec (.init .bytes32) s =
      .next { s with rk := expandKey s.keyReg, keyValid := true, err := 0x0, busy := false }) ∧
  (∀ (k : KeySel) (s : State), k ≠ .bytes32 →
    exec (.init k) s = .next { s with err := 0x2, busy := false }) ∧
  (∀ s : State, s.busy = true → s.pend &&& 0xFFFFCFFF = 0x00000001 →
    (s.pend.extractLsb' 12 2 = 0b10 → complete s = exec (.init .bytes32) s) ∧
    (s.pend.extractLsb' 12 2 ≠ 0b10 → complete s = .next { s with err := 0x2, busy := false })) ∧
  (∀ s : State, s.busy = true → s.pend &&& 0x1F = 0x01 → s.pend &&& 0xFFFFCFFF ≠ 0x00000001 →
    complete s = .next { s with err := 0x1, busy := false }) ∧
  (∀ i : Fin 60, 8 ≤ i.val ∧ i.val ≤ 11 → scheduleWord (expandKey (Vector.replicate 32 0x00)) i = ⟨0x62, 0x63, 0x63, 0x63⟩) ∧
  (∀ i : Fin 60, 12 ≤ i.val ∧ i.val ≤ 15 → scheduleWord (expandKey (Vector.replicate 32 0x00)) i = ⟨0xaa, 0xfb, 0xfb, 0xfb⟩) ∧
  scheduleWord (expandKey countingKey) 8 = ⟨0xa5, 0x73, 0xc2, 0x9f⟩ ∧
  scheduleWord (expandKey countingKey) 59 = ⟨0x6d, 0x68, 0xde, 0x36⟩

/-- R190 and R191: SUB_BYTES and INV_SUB_BYTES at completion, in either context state; run one after the other they restore
STATE. STATE, ERR and BUSY are the only registers written. -/
def Obligations.SubBytesCommands : Prop :=
  (∀ s : State,
    exec .subBytes s = .next { s with stateReg := subBytes s.stateReg, err := 0x0, busy := false } ∧
    exec .invSubBytes s = .next { s with stateReg := invSubBytes s.stateReg, err := 0x0, busy := false } ∧
    execAll [.subBytes, .invSubBytes] s = .next { s with err := 0x0, busy := false }) ∧
  RowRuns 0x00000004 0xFFFFFFFF (fun _ => .subBytes) ∧
  RowRuns 0x00000005 0xFFFFFFFF (fun _ => .invSubBytes) ∧
  subBytes (Vector.replicate 16 0x00) = Vector.replicate 16 0x63 ∧
  invSubBytes (Vector.replicate 16 0x63) = Vector.replicate 16 0x00 ∧
  subBytes exampleBlock = hexBlock 0x638293c31bfc33f5c4eeacea4bc12816 ∧
  invSubBytes exampleBlock = hexBlock 0x52e3946686edd30297f962fe27c9997d

/-- R192 and R193: SHIFT_ROWS and INV_SHIFT_ROWS at completion, in either context state. The first undone by the second, and
four of either, leave STATE as it was. STATE, ERR and BUSY are the only registers written. -/
def Obligations.ShiftRowsCommands : Prop :=
  (∀ s : State,
    exec .shiftRows s = .next { s with stateReg := shiftRows s.stateReg, err := 0x0, busy := false } ∧
    exec .invShiftRows s = .next { s with stateReg := invShiftRows s.stateReg, err := 0x0, busy := false } ∧
    execAll [.shiftRows, .invShiftRows] s = .next { s with err := 0x0, busy := false } ∧
    execAll [.shiftRows, .shiftRows, .shiftRows, .shiftRows] s = .next { s with err := 0x0, busy := false } ∧
    execAll [.invShiftRows, .invShiftRows, .invShiftRows, .invShiftRows] s = .next { s with err := 0x0, busy := false } ∧
    ((∀ r c : Fin 4, blockAt s.stateReg r c = blockAt s.stateReg r 0) →
      exec .shiftRows s = .next { s with err := 0x0, busy := false })) ∧
  RowRuns 0x00000006 0xFFFFFFFF (fun _ => .shiftRows) ∧
  RowRuns 0x00000007 0xFFFFFFFF (fun _ => .invShiftRows) ∧
  shiftRows (hexBlock 0x000102030405060708090a0b0c0d0e0f) = hexBlock 0x00050a0f04090e03080d02070c01060b ∧
  invShiftRows (hexBlock 0x000102030405060708090a0b0c0d0e0f) = hexBlock 0x000d0a0704010e0b0805020f0c090603 ∧
  shiftRows exampleBlock = hexBlock 0x0055aaff4499ee3388dd2277cc1166bb ∧
  invShiftRows exampleBlock = hexBlock 0x00ddaa774411eebb885522ffcc996633

/-- R194 and R195: MIX_COLUMNS and INV_MIX_COLUMNS at completion, in either context state. The second undoes the first, and a
column of four equal bytes stays as it is. STATE, ERR and BUSY are the only registers written. -/
def Obligations.MixColumnsCommands : Prop :=
  (∀ s : State,
    exec .mixColumns s = .next { s with stateReg := mixColumns s.stateReg, err := 0x0, busy := false } ∧
    exec .invMixColumns s = .next { s with stateReg := invMixColumns s.stateReg, err := 0x0, busy := false } ∧
    execAll [.mixColumns, .invMixColumns] s = .next { s with err := 0x0, busy := false } ∧
    (∀ c : Fin 4, (∀ r : Fin 4, blockAt s.stateReg r c = blockAt s.stateReg 0 c) →
      ∀ r : Fin 4, blockAt (mixColumns s.stateReg) r c = blockAt s.stateReg r c ∧
        blockAt (invMixColumns s.stateReg) r c = blockAt s.stateReg r c) ∧
    (∀ c : Fin 4, blockAt s.stateReg 0 c = 0xdb → blockAt s.stateReg 1 c = 0x13 → blockAt s.stateReg 2 c = 0x53 →
      blockAt s.stateReg 3 c = 0x45 →
      blockAt (mixColumns s.stateReg) 0 c = 0x8e ∧ blockAt (mixColumns s.stateReg) 1 c = 0x4d ∧
        blockAt (mixColumns s.stateReg) 2 c = 0xa1 ∧ blockAt (mixColumns s.stateReg) 3 c = 0xbc) ∧
    (∀ c : Fin 4, blockAt s.stateReg 0 c = 0x8e → blockAt s.stateReg 1 c = 0x4d → blockAt s.stateReg 2 c = 0xa1 →
      blockAt s.stateReg 3 c = 0xbc →
      blockAt (invMixColumns s.stateReg) 0 c = 0xdb ∧ blockAt (invMixColumns s.stateReg) 1 c = 0x13 ∧
        blockAt (invMixColumns s.stateReg) 2 c = 0x53 ∧ blockAt (invMixColumns s.stateReg) 3 c = 0x45)) ∧
  RowRuns 0x00000008 0xFFFFFFFF (fun _ => .mixColumns) ∧
  RowRuns 0x00000009 0xFFFFFFFF (fun _ => .invMixColumns) ∧
  mixColumns exampleBlock = hexBlock 0x2277005566334411aaff88ddeebbcc99 ∧
  invMixColumns exampleBlock = hexBlock 0xaaff88ddeebbcc992277005566334411

/-- R196: ADD_ROUND_KEY. The round index above 14 that RIDX can hold, 15, raises BAD_ROUND_INDEX whatever KEY_VALID is; a valid one
without a context raises NOT_INITIALIZED; otherwise byte j of STATE takes XOR RK[16r + j], and twice the same index restores STATE.
Right after INIT, indices 0 and 1 take the bytes of KEY. -/
def Obligations.AddRoundKeyCommand : Prop :=
  (∀ (r : Nat) (s : State), 14 < r → r < 16 → exec (.addRoundKey r) s = .next { s with err := 0x4, busy := false }) ∧
  (∀ (r : Nat) (s : State), r ≤ 14 → s.keyValid = false →
    exec (.addRoundKey r) s = .next { s with err := 0x3, busy := false }) ∧
  (∀ (r : Nat) (s : State), r ≤ 14 → s.keyValid = true → ∃ b : Block,
    exec (.addRoundKey r) s = .next { s with stateReg := b, err := 0x0, busy := false } ∧
    (∀ j : Fin 16, s.rk[16 * r + j.val]? = some (s.stateReg[j] ^^^ b[j])) ∧
    execAll [.addRoundKey r, .addRoundKey r] s = .next { s with err := 0x0, busy := false }) ∧
  RowRuns 0x0000000A 0xFFFFF0FF (fun cw => .addRoundKey (cw.extractLsb' 8 4).toNat) ∧
  (∀ s : State, ∃ b b' : Block,
    execAll [.init .bytes32, .addRoundKey 0] s =
      .next { s with rk := expandKey s.keyReg, keyValid := true, stateReg := b, err := 0x0, busy := false } ∧
    execAll [.init .bytes32, .addRoundKey 1] s =
      .next { s with rk := expandKey s.keyReg, keyValid := true, stateReg := b', err := 0x0, busy := false } ∧
    (∀ j : Fin 16, b[j] = s.stateReg[j] ^^^ s.keyReg[j.val] ∧ b'[j] = s.stateReg[j] ^^^ s.keyReg[16 + j.val])) ∧
  addRoundKey exampleBlock (expandKey countingKey) 0 = hexBlock 0x00102030405060708090a0b0c0d0e0f0 ∧
  addRoundKey exampleBlock (expandKey countingKey) 14 = hexBlock 0x24ed5bfffb5c1f9ebf836887a1b530c9

/-- R210 and R211: ENCRYPT and DECRYPT. Without a context each raises NOT_INITIALIZED; with one, every block succeeds, STATE,
ERR and BUSY are the only registers written, and the two undo each other. -/
def Obligations.CipherCommands : Prop :=
  (∀ s : State, s.keyValid = false →
    exec .encrypt s = .next { s with err := 0x3, busy := false } ∧
    exec .decrypt s = .next { s with err := 0x3, busy := false }) ∧
  (∀ s : State, s.keyValid = true →
    exec .encrypt s = .next { s with stateReg := encryptBlock s.stateReg s.rk, err := 0x0, busy := false } ∧
    exec .decrypt s = .next { s with stateReg := decryptBlock s.stateReg s.rk, err := 0x0, busy := false } ∧
    execAll [.encrypt, .decrypt] s = .next { s with err := 0x0, busy := false } ∧
    execAll [.decrypt, .encrypt] s = .next { s with err := 0x0, busy := false }) ∧
  RowRuns 0x00000002 0xFFFFFFFF (fun _ => .encrypt) ∧
  RowRuns 0x00000003 0xFFFFFFFF (fun _ => .decrypt) ∧
  encryptBlock exampleBlock (expandKey countingKey) = hexBlock 0x8ea2b7ca516745bfeafc49904b496089 ∧
  decryptBlock (hexBlock 0x8ea2b7ca516745bfeafc49904b496089) (expandKey countingKey) = exampleBlock ∧
  encryptBlock (Vector.replicate 16 0x00) (expandKey (Vector.replicate 32 0x00)) = hexBlock 0xdc95c078a2408989ad48a21492842087 ∧
  decryptBlock (Vector.replicate 16 0x00) (expandKey countingKey) = hexBlock 0x6d9f08eb2a2e277ab48984cff1ab9a09

/-! ## The units' functions -/

/-- R103, with R100's reading of a byte as a polynomial over GF(2) and R101's m(x) = x^8 + x^4 + x^3 + x + 1: `gf_mul(a, b)`
is the remainder of the product by m. -/
def Obligations.GfMulIsPolynomialProduct : Prop :=
  let poly : Byte → Polynomial (ZMod 2) := fun a =>
    ∑ i ∈ Finset.range 8, if a.getLsbD i then (Polynomial.X ^ i : Polynomial (ZMod 2)) else 0
  let m : Polynomial (ZMod 2) :=
    Polynomial.X ^ 8 + Polynomial.X ^ 4 + Polynomial.X ^ 3 + Polynomial.X + 1
  ∀ a b : Byte, poly (gfMul a b) = (poly a * poly b) %ₘ m

/-- R105 and R106: `xtime` is multiplication by 0x02, and gf_mul has the laws of the field. -/
def Obligations.GfMulFieldLaws : Prop :=
  (∀ a : Byte, xtime a = gfMul a 0x02 ∧ gfMul a 0x02 = (a <<< 1) ^^^ (if a.getLsbD 7 then 0x1B else 0x00)) ∧
  xtime 0x57 = 0xAE ∧ xtime 0x80 = 0x1B ∧
  (∀ a : Byte, gfMul a 0x01 = a ∧ gfMul a 0x00 = 0x00) ∧
  (∀ a b : Byte, gfMul a b = gfMul b a) ∧
  (∀ a b c : Byte, gfMul a (gfMul b c) = gfMul (gfMul a b) c) ∧
  (∀ a b c : Byte, gfMul a (gfAdd b c) = gfAdd (gfMul a b) (gfMul a c)) ∧
  (∀ a b : Byte, gfMul a b = 0x00 → a = 0x00 ∨ b = 0x00)

/-- R107 and R108: gf_inv is 0 at 0 and the unique inverse elsewhere, it is what the exhaustive search of R107 finds, it undoes
itself, it is a bijection, and its only fixed points are 0x00 and 0x01. -/
def Obligations.GfInvIsTheUniqueInverse : Prop :=
  gfInv 0x00 = 0x00 ∧
  (∀ a x : Byte, a ≠ 0x00 → (gfMul a x = 0x01 ↔ x = gfInv a)) ∧
  (∀ a : Byte, gfInv a = gfInvSearch a) ∧
  (∀ a : Byte, gfInv (gfInv a) = a) ∧
  Function.Bijective gfInv ∧
  (∀ a : Byte, gfInv a = a ↔ a = 0x00 ∨ a = 0x01)

/-- R130 to R135: the rotation bit by bit, the two affine maps undoing each other, the S-boxes made of them and the inverse, and the
required invariants: sbox is a bijection, inv_sbox undoes it both ways, and no byte maps to itself or its complement. -/
def Obligations.SboxIsInverseThenAffine : Prop :=
  (∀ (v : Byte) (n i : Nat), n < 8 → i < 8 → (rotl8 v n).getLsbD i = v.getLsbD ((i + 8 - n) % 8)) ∧
  (∀ x : Byte, ∃ v : Byte, (x = 0x00 → v = 0x00) ∧ (x ≠ 0x00 → gfMul x v = 0x01) ∧
    sbox x = v ^^^ rotl8 v 1 ^^^ rotl8 v 2 ^^^ rotl8 v 3 ^^^ rotl8 v 4 ^^^ 0x63) ∧
  (∀ y : Byte, let v : Byte := rotl8 y 1 ^^^ rotl8 y 3 ^^^ rotl8 y 6 ^^^ 0x05
    (v = 0x00 → invSbox y = 0x00) ∧ (v ≠ 0x00 → gfMul v (invSbox y) = 0x01)) ∧
  (∀ v : Byte, affine v = v ^^^ rotl8 v 1 ^^^ rotl8 v 2 ^^^ rotl8 v 3 ^^^ rotl8 v 4 ^^^ 0x63 ∧
    invAffine v = rotl8 v 1 ^^^ rotl8 v 3 ^^^ rotl8 v 6 ^^^ 0x05) ∧
  (∀ v : Byte, invAffine (affine v) = v ∧ affine (invAffine v) = v) ∧
  rotl8 0x81 1 = 0x03 ∧ affine 0x00 = 0x63 ∧ invAffine 0x63 = 0x00 ∧ sbox 0x00 = 0x63 ∧ invSbox 0x63 = 0x00 ∧
  (∀ x : Byte, sbox x = affine (gfInv x) ∧ invSbox x = gfInv (invAffine x)) ∧
  Function.Bijective sbox ∧
  (∀ x : Byte, invSbox (sbox x) = x ∧ sbox (invSbox x) = x) ∧
  (∀ x : Byte, sbox x ≠ x ∧ sbox x ≠ x ^^^ 0xFF)

/-- R154, with R150 to R153, R155 and R156: words 0 to 7 of the schedule are the raw key, and every later word is the word eight
before it XOR the previous word, rotated and substituted with the round constant, only substituted, or plain. -/
def Obligations.ScheduleRecurrence : Prop :=
  ∀ K : KeyBytes,
    (∀ i : Fin 32, (expandKey K)[i.val]? = some K[i]) ∧
    (∀ (i : Nat) (h : 8 ≤ i ∧ i < 60),
      let W : (j : Nat) → j < 60 → KeyWord := fun j hj => scheduleWord (expandKey K) ⟨j, hj⟩
      let prev := W (i - 1) (by omega)
      let temp : KeyWord :=
        if i % 8 = 0 then
          ⟨sbox prev.w1 ^^^ [0x8d, 0x01, 0x02, 0x04, 0x08, 0x10, 0x20, 0x40, 0x80, 0x1b, 0x36].getD (i / 8) 0,
            sbox prev.w2, sbox prev.w3, sbox prev.w0⟩
        else if i % 8 = 4 then ⟨sbox prev.w0, sbox prev.w1, sbox prev.w2, sbox prev.w3⟩
        else prev
      W i h.2 =
        ⟨(W (i - 8) (by omega)).w0 ^^^ temp.w0, (W (i - 8) (by omega)).w1 ^^^ temp.w1,
          (W (i - 8) (by omega)).w2 ^^^ temp.w2, (W (i - 8) (by omega)).w3 ^^^ temp.w3⟩)

/-- R180 and R187: byte substitution and round-key addition act on each byte by itself, and the addition undoes itself. -/
def Obligations.BytewiseRoundFunctions : Prop :=
  (∀ (s : Block) (k : Fin 16), (subBytes s)[k] = sbox s[k] ∧ (invSubBytes s)[k] = invSbox s[k]) ∧
  (∀ (s : Block) (w : Schedule) (r : Fin 15) (j : Fin 16),
    w[16 * r.val + j.val]? = some ((addRoundKey s w r)[j] ^^^ s[j])) ∧
  (∀ (s : Block) (w : Schedule) (r : Fin 15), addRoundKey (addRoundKey s w r) w r = s)

/-- R182 and R183: output byte 4c + r of shift_rows is input byte 4((c + r) mod 4) + r, and of inv_shift_rows input byte
4((c - r) mod 4) + r; each undoes the other. -/
def Obligations.ShiftRowsRotatesRows : Prop :=
  (∀ (s : Block) (r c : Nat), r < 4 → c < 4 →
    (shiftRows s)[4 * c + r]? = s[4 * ((c + r) % 4) + r]? ∧
    (invShiftRows s)[4 * c + r]? = s[4 * ((c + 4 - r) % 4) + r]?) ∧
  (∀ s : Block, invShiftRows (shiftRows s) = s ∧ shiftRows (invShiftRows s) = s)

/-- R109, R185 and R186: the column product written out, for the forward and the inverse matrix, each output byte from the
unchanged input column; and the inverse matrix undoes the forward one. -/
def Obligations.MixColumnsWrittenOut : Prop :=
  (∀ (s : Block) (c : Fin 4),
    let s0 := blockAt s 0 c
    let s1 := blockAt s 1 c
    let s2 := blockAt s 2 c
    let s3 := blockAt s 3 c
    blockAt (mixColumns s) 0 c = gfMul 2 s0 ^^^ gfMul 3 s1 ^^^ s2 ^^^ s3 ∧
    blockAt (mixColumns s) 1 c = s0 ^^^ gfMul 2 s1 ^^^ gfMul 3 s2 ^^^ s3 ∧
    blockAt (mixColumns s) 2 c = s0 ^^^ s1 ^^^ gfMul 2 s2 ^^^ gfMul 3 s3 ∧
    blockAt (mixColumns s) 3 c = gfMul 3 s0 ^^^ s1 ^^^ s2 ^^^ gfMul 2 s3 ∧
    blockAt (invMixColumns s) 0 c = gfMul 14 s0 ^^^ gfMul 11 s1 ^^^ gfMul 13 s2 ^^^ gfMul 9 s3 ∧
    blockAt (invMixColumns s) 1 c = gfMul 9 s0 ^^^ gfMul 14 s1 ^^^ gfMul 11 s2 ^^^ gfMul 13 s3 ∧
    blockAt (invMixColumns s) 2 c = gfMul 13 s0 ^^^ gfMul 9 s1 ^^^ gfMul 14 s2 ^^^ gfMul 11 s3 ∧
    blockAt (invMixColumns s) 3 c = gfMul 11 s0 ^^^ gfMul 13 s1 ^^^ gfMul 9 s2 ^^^ gfMul 14 s3) ∧
  (∀ s : Block, invMixColumns (mixColumns s) = s)

/-- R188: each transformation's inverse undoes it, and substitution commutes with row shifting, forward and inverse. -/
def Obligations.RoundTransformLaws : Prop :=
  ∀ (s : Block) (w : Schedule) (r : Fin 15),
    invSubBytes (subBytes s) = s ∧ invShiftRows (shiftRows s) = s ∧ invMixColumns (mixColumns s) = s ∧
    addRoundKey (addRoundKey s w r) w r = s ∧
    shiftRows (subBytes s) = subBytes (shiftRows s) ∧
    invShiftRows (invSubBytes s) = invSubBytes (invShiftRows s)

/-- R207: decryption undoes encryption and encryption undoes decryption, for every block and any 240 bytes in RK. -/
def Obligations.CipherRoundTrip : Prop :=
  ∀ (s : Block) (w : Schedule),
    decryptBlock (encryptBlock s w) w = s ∧ encryptBlock (decryptBlock s w) w = s

/-- R205, R206 and R242: with a context, ENCRYPT and DECRYPT do exactly what the round commands do when driven one by one in the
order of their steps. -/
def Obligations.RoundCommandsReproduceCipher : Prop :=
  ∀ s : State, s.keyValid = true →
    execAll encryptCommands s = exec .encrypt s ∧ execAll decryptCommands s = exec .decrypt s

/-! ## Errors -/

/-- R232: a command that completes with an error code changes ERR and BUSY and nothing else. -/
def Obligations.FailedCommandChangesOnlyErr : Prop :=
  ∀ s t : State, s.busy = true → complete s = .next t → t.err ≠ 0x0 →
    t = { s with err := t.err, busy := false }

/-- R233 and R234: the checks run in a fixed order, decode, operand range, context state, and the first that fails gives the code
and ends the command; one that passes them all has the effect of its rule and completes with 0x0. Only ENCRYPT, DECRYPT and
ADD_ROUND_KEY need a context. -/
def Obligations.ChecksRunInOrder : Prop :=
  ∀ s : State, s.busy = true →
    (∀ why, decode s.pend = .illegal why → complete s = .next { s with err := 0x1, busy := false }) ∧
    (∀ i, decode s.pend = .instr i →
      let code : BitVec 4 :=
        match i with
        | .init _ => if s.pend.extractLsb' 12 2 = 0b10 then 0x0 else 0x2
        | .addRoundKey _ => if 14 < (s.pend.extractLsb' 8 4).toNat then 0x4 else if s.keyValid then 0x0 else 0x3
        | .encrypt => if s.keyValid then 0x0 else 0x3
        | .decrypt => if s.keyValid then 0x0 else 0x3
        | .subBytes => 0x0
        | .invSubBytes => 0x0
        | .shiftRows => 0x0
        | .invShiftRows => 0x0
        | .mixColumns => 0x0
        | .invMixColumns => 0x0
        | .gfAdd _ _ => 0x0
        | .gfMul _ _ => 0x0
        | .gfInv _ => 0x0
        | .sboxFwd _ => 0x0
        | .sboxInv _ => 0x0
      (code ≠ 0x0 → complete s = .next { s with err := code, busy := false }) ∧
      (code = 0x0 → ∃ t, complete s = .next t ∧ exec i s = .next t ∧ t.err = 0x0 ∧ t.busy = false))

/-- R88, R25 and R32: what a command may write. Every command writes ERR and BUSY; only INIT writes RK and KEY_VALID, only the
five byte commands RESULT, only ENCRYPT, DECRYPT and the seven round commands STATE; none writes KEY, PEND or OVR, or
anything of the host's. -/
def Obligations.CommandsWriteOnlyTheirRegisters : Prop :=
  ∀ (i : Instr) (s t : State), exec i s = .next t →
    t.busy = false ∧ t.keyReg = s.keyReg ∧ t.pend = s.pend ∧ t.ovr = s.ovr ∧
    t.hostProgram = s.hostProgram ∧ t.turns = s.turns ∧ t.readLog = s.readLog ∧ t.freeCount = s.freeCount ∧
    (i ≠ .init .bytes32 → t.rk = s.rk ∧ t.keyValid = s.keyValid) ∧
    ((∀ a b, i ≠ .gfAdd a b ∧ i ≠ .gfMul a b) → (∀ a, i ≠ .gfInv a ∧ i ≠ .sboxFwd a ∧ i ≠ .sboxInv a) →
      t.result = s.result) ∧
    (i ∉ [.encrypt, .decrypt, .subBytes, .invSubBytes, .shiftRows, .invShiftRows, .mixColumns, .invMixColumns] →
      (∀ r, i ≠ .addRoundKey r) → t.stateReg = s.stateReg)

/-! ## The host bus -/

/-- R52, with R51, R58 and R60: what every offset reads, by word index; `none` is an unspecified value. Bytes are little-endian in
the word (R55). -/
def Obligations.BusReadAnswers : Prop :=
  ∀ (off : Offset) (s : State),
    let w := (off.extractLsb' 2 7).toNat
    (w = 0 → busRead off s = some 0) ∧
    (w = 1 → ∃ v : Word, busRead off s = some v ∧ v.getLsbD 0 = s.busy ∧ v.getLsbD 1 = s.keyValid ∧
      v.getLsbD 2 = false ∧ v.getLsbD 3 = s.ovr ∧ v.extractLsb' 4 4 = 0 ∧ v.extractLsb' 8 4 = s.err ∧
      v.extractLsb' 12 20 = 0) ∧
    (w = 2 → (s.busy = true → busRead off s = none) ∧
      (s.busy = false → ∃ v : Word, busRead off s = some v ∧ v.extractLsb' 0 8 = s.result ∧ v.extractLsb' 8 24 = 0)) ∧
    (4 ≤ w ∧ w ≤ 7 → (s.busy = true → busRead off s = none) ∧
      (s.busy = false → ∃ v : Word, busRead off s = some v ∧
        ∀ k < 4, s.stateReg[4 * (w - 4) + k]? = some (v.extractLsb' (8 * k) 8))) ∧
    (8 ≤ w ∧ w ≤ 15 → busRead off s = some 0) ∧
    (64 ≤ w ∧ w ≤ 123 → (s.keyValid = false → busRead off s = some 0) ∧
      (s.keyValid = true → s.busy = true → busRead off s = none) ∧
      (s.keyValid = true → s.busy = false → ∃ v : Word, busRead off s = some v ∧
        ∀ k < 4, s.rk[4 * (w - 64) + k]? = some (v.extractLsb' (8 * k) 8))) ∧
    (w = 3 ∨ (16 ≤ w ∧ w ≤ 63) ∨ 124 ≤ w → busRead off s = some 0)

/-- R53, with R54, R57 and R60: what every offset does on a write, by word index, and everything it leaves unchanged. -/
def Obligations.BusWriteEffects : Prop :=
  ∀ (off : Offset) (v : Word) (s : State),
    let w := (off.extractLsb' 2 7).toNat
    (w = 0 → s.busy = false → busWrite off v s = { s with pend := v, busy := true }) ∧
    (w = 1 → busWrite off v s = { s with ovr := s.ovr && !v.getLsbD 3 }) ∧
    (4 ≤ w ∧ w ≤ 7 → s.busy = false → ∃ b : Block, busWrite off v s = { s with stateReg := b } ∧
      (∀ k < 4, b[4 * (w - 4) + k]? = some (v.extractLsb' (8 * k) 8)) ∧
      (∀ i : Nat, i < 4 * (w - 4) ∨ 4 * (w - 4) + 4 ≤ i → b[i]? = s.stateReg[i]?)) ∧
    (8 ≤ w ∧ w ≤ 15 → s.busy = false → ∃ K : KeyBytes, busWrite off v s = { s with keyReg := K } ∧
      (∀ k < 4, K[4 * (w - 8) + k]? = some (v.extractLsb' (8 * k) 8)) ∧
      (∀ i : Nat, i < 4 * (w - 8) ∨ 4 * (w - 8) + 4 ≤ i → K[i]? = s.keyReg[i]?)) ∧
    (w = 0 ∨ (4 ≤ w ∧ w ≤ 15) → s.busy = true → busWrite off v s = { s with ovr := true }) ∧
    (w = 2 ∨ w = 3 ∨ 16 ≤ w → busWrite off v s = s)

/-- R61: offset bits 1:0 are ignored. Two offsets with the same bits 8:2 are the same access, so no access is misaligned. -/
def Obligations.OffsetLowBitsIgnored : Prop :=
  ∀ (off off' : Offset) (v : Word) (s : State), off.extractLsb' 2 7 = off'.extractLsb' 2 7 →
    busRead off s = busRead off' s ∧ busWrite off v s = busWrite off' v s

/-- R57 and R235: a write to CMD, STATE or KEY while BUSY = 1 sets OVR and does not affect the pending command, which completes as
it would have, with OVR set. Writes to STATUS are never dropped: each clears OVR exactly when its bit 3 is 1. -/
def Obligations.DroppedWriteSparesPending : Prop :=
  ∀ (off : Offset) (v : Word) (s : State), s.busy = true →
    ((busReg off = .cmd ∨ (∃ j, busReg off = .state j) ∨ ∃ j, busReg off = .key j) →
      busWrite off v s = { s with ovr := true } ∧
      ∃ t, complete s = .next t ∧ complete (busWrite off v s) = .next { t with ovr := true }) ∧
    (busReg off = .status → busWrite off v s = { s with ovr := s.ovr && !v.getLsbD 3 })

/-- R55 and R63: a word written to STATEj while idle reads back, writing it again changes nothing, and every other STATE word
reads as before. -/
def Obligations.StateWriteReadsBack : Prop :=
  ∀ (off off' : Offset) (j j' : Fin 4) (v : Word) (s : State), s.busy = false →
    busReg off = .state j → busReg off' = .state j' →
    busRead off (busWrite off v s) = some v ∧
    busWrite off v (busWrite off v s) = busWrite off v s ∧
    (j' ≠ j → busRead off' (busWrite off v s) = busRead off' s)

/-- R52, R59 and R63: a host read changes no register of the core. A specified value goes to the host as it stands; an unspecified
one is a fresh free value, for every value of the counter it is drawn by (assumption log 3). Unspecified are exactly RESULT and
STATE while BUSY = 1, and RK while BUSY = 1 and KEY_VALID = 1. -/
def Obligations.HostReadsChangeNoRegister : Prop :=
  ∀ (off : Offset) (s : State),
    (∀ v, busRead off s = some v → hostRead off s = { s with readLog := (off, v) :: s.readLog }) ∧
    (busRead off s = none → hostRead off s =
      { s with readLog := (off, Config.freeRead s.freeCount) :: s.readLog, freeCount := s.freeCount + 1 }) ∧
    (busRead off s = none ↔ s.busy = true ∧
      (busReg off = .result ∨ (∃ j, busReg off = .state j) ∨ ((∃ i, busReg off = .rk i) ∧ s.keyValid = true)))

/-! ## The step relation -/

/-- A step runs the decoded command: with a command pending and the core's turn next, `step` is `exec` of what PEND decodes to,
on the state with that turn taken; and a word placed by `withFetchWord` is what the next step runs (R270). Turns and the place a
word is put are the model's own (log 1, 6). -/
def Obligations.StepRunsThePendingCommand : Prop :=
  ∀ (s : State) (i : Instr),
    (s.busy = true → decode s.pend = .instr i → s.turns = [] → step s = exec i s) ∧
    (∀ rest, s.busy = true → decode s.pend = .instr i → s.turns = .core :: rest →
      step s = exec i { s with turns := rest }) ∧
    (∀ cw : Word, decode cw = .instr i →
      step (s.withFetchWord 32 cw.toNat) = exec i { s with pend := cw, busy := true })

/-- R276: every step answers a next state, and which effect it has: HostWrite, HostRead or Complete, or Reset, whichever turn comes
next; Complete changes nothing while BUSY = 0, and a host with nothing left to do lets its turn pass. The planned turns, the host's
program, the default turn and the turns that pass are the model's own (log 1, 2, 8). -/
def Obligations.StepRelation : Prop :=
  (∀ s : State, ∃ t, step s = .next t) ∧
  (∀ (s : State) (rest : List Turn), s.turns = .reset :: rest → step s = .next (resetCore { s with turns := rest })) ∧
  (∀ (s : State) (rest : List Turn), s.turns = .core :: rest →
    (s.busy = true → step s = complete { s with turns := rest }) ∧
    (s.busy = false → step s = .next { s with turns := rest })) ∧
  (∀ (s : State) (rest : List Turn) (off : Offset) (v : Word) (p : List HostOp),
    s.turns = .host :: rest → s.hostProgram = .write off v :: p →
    step s = .next (busWrite off v { s with turns := rest, hostProgram := p })) ∧
  (∀ (s : State) (rest : List Turn) (off : Offset) (p : List HostOp),
    s.turns = .host :: rest → s.hostProgram = .read off :: p →
    step s = .next (hostRead off { s with turns := rest, hostProgram := p })) ∧
  (∀ (s : State) (rest : List Turn) (p : List HostOp), s.turns = .host :: rest → s.hostProgram = .waitIdle :: p →
    step s = .next (hostRead 0x004 { s with turns := rest, hostProgram := if s.busy then .waitIdle :: p else p })) ∧
  (∀ (s : State) (rest : List Turn), s.turns = .host :: rest → s.hostProgram = [] → step s = .next { s with turns := rest }) ∧
  (∀ (s : State), s.turns = [] → s.busy = true → step s = complete s) ∧
  (∀ (s : State), s.turns = [] → s.busy = false → step s = step { s with turns := [.host] })

/-- R270, R271 and R275: a pending command always comes to its end, and nothing disturbs it before. From every state with BUSY = 1
and whatever turns come, within as many steps as turns are planned the machine stands before the end, with PEND, STATE, KEY, RK,
KEY_VALID, RESULT and ERR as they were; its next step is then the completion of that very command, or the reset that aborts it. (That
it completes when no turn is planned is the model's default; log 1.) -/
def Obligations.PendingCommandCompletesUndisturbed : Prop :=
  ∀ s : State, s.busy = true →
    ∃ (n : Nat) (u : State), n ≤ s.turns.length ∧ Host.Core.run core n s = .next u ∧
      u.busy = true ∧ u.pend = s.pend ∧ u.stateReg = s.stateReg ∧ u.keyReg = s.keyReg ∧ u.rk = s.rk ∧
      u.keyValid = s.keyValid ∧ u.result = s.result ∧ u.err = s.err ∧
      ((completesNow u = true ∧ step u = execute { u with turns := u.turns.tail }) ∨
        (resetsNow u = true ∧ step u = .next (resetCore { u with turns := u.turns.tail })))

/-- R260 and R261: reset, whatever the state and with a command pending or not: the registers the spec gives a value have it, no
effect of a pending command appears, and the core accepts a command at once. (RK and PEND are unspecified there; log 4.) -/
def Obligations.ResetFromAnyState : Prop :=
  ∀ (s : State) (rest : List Turn), s.turns = .reset :: rest → ∃ t, step s = .next t ∧
    t.busy = false ∧ t.keyValid = false ∧ t.ovr = false ∧ t.err = 0x0 ∧ t.result = 0x00 ∧
    (∀ k : Fin 16, t.stateReg[k] = 0x00) ∧ (∀ k : Fin 32, t.keyReg[k] = 0x00) ∧
    (∀ v : Word, busWrite 0x000 v t = { t with pend := v, busy := true })

/-- The invariant holds at reset: ERR is a code of R230, and no context is KeyExpanded. -/
def Obligations.InvariantAtReset : Prop := State.reset.Inv

/-- Every step keeps the invariant: ERR is one of the codes 0x0 to 0x4 (R230), and while KEY_VALID = 1 RK is the expansion of some
key (R26, R32, R158). -/
def Obligations.StepKeepsInvariant : Prop :=
  ∀ s t : State, s.Inv → step s = .next t → t.Inv

/-- R21, R22, R23 and R28: what changes each field of STATUS. BUSY rises only by a write to CMD while idle and falls only by a
completion or reset; KEY_VALID rises only by a successful INIT and falls only by reset; OVR rises only by a write dropped while
BUSY = 1 and falls only by a write to STATUS with bit 3 = 1, which always clears it, or reset; ERR changes only by a completion or
reset. -/
def Obligations.StatusFieldsChangeOnlySo : Prop :=
  ∀ s t : State, step s = .next t →
    (s.busy = false → t.busy = true → writesNow isCmd s = true) ∧
    (s.busy = true → t.busy = false → completesNow s = true ∨ resetsNow s = true) ∧
    (completesNow s = true ∨ resetsNow s = true → t.busy = false) ∧
    (s.keyValid = false → t.keyValid = true → completesNow s = true ∧ decode s.pend = .instr (.init .bytes32)) ∧
    (s.keyValid = true → t.keyValid = false → resetsNow s = true) ∧
    (s.ovr = false → t.ovr = true → s.busy = true ∧ writesNow droppedWhenBusy s = true) ∧
    (s.busy = true → writesNow droppedWhenBusy s = true → t.ovr = true) ∧
    (s.ovr = true → t.ovr = false → clearsOverrunNow s = true ∨ resetsNow s = true) ∧
    (clearsOverrunNow s = true → t.ovr = false) ∧
    (t.err ≠ s.err → completesNow s = true ∨ resetsNow s = true)

/-- R25, R26, R27, R29 and R65: what changes each data register. KEY changes only by a host write to it while idle or reset, PEND
only by an accepted command or reset, RK only by a successful INIT or reset, RESULT only by a completion or reset, and STATE only by
a completion, a host write to it while idle, or reset. -/
def Obligations.DataRegistersChangeOnlySo : Prop :=
  ∀ s t : State, step s = .next t →
    (t.keyReg ≠ s.keyReg → (writesNow isKey s = true ∧ s.busy = false) ∨ resetsNow s = true) ∧
    (t.pend ≠ s.pend → (writesNow isCmd s = true ∧ s.busy = false) ∨ resetsNow s = true) ∧
    (t.rk ≠ s.rk → (completesNow s = true ∧ decode s.pend = .instr (.init .bytes32)) ∨ resetsNow s = true) ∧
    (t.result ≠ s.result → completesNow s = true ∨ resetsNow s = true) ∧
    (t.stateReg ≠ s.stateReg →
      completesNow s = true ∨ (writesNow isState s = true ∧ s.busy = false) ∨ resetsNow s = true)

/-- R272: a step that keeps the busy rule never sets OVR and never hands the host an unspecified value. -/
def Obligations.SafeStepSeesNoHazard : Prop :=
  ∀ s t : State, SafeStep s → step s = .next t → t.freeCount = s.freeCount ∧ (s.ovr = false → t.ovr = false)

/-- R64 and R272: a host write that keeps the busy rule, and a read of CMD, KEY or a reserved offset, commute with the completion of
the pending command: before it or after it, the machine ends in the same state. (The planned turns and the host's program are the
model's own; log 1, 2.) -/
def Obligations.HazardFreeAccessCommutes : Prop :=
  ∀ (s : State) (op : HostOp) (p : List HostOp), s.busy = true → s.hostProgram = op :: p →
    ((∃ off v, op = .write off v ∧ droppedWhenBusy (busReg off) = false) ∨
      ∃ off, op = .read off ∧ (busReg off = .cmd ∨ busReg off = .reserved ∨ ∃ j, busReg off = .key j)) →
    ∃ t, Host.Core.run core 2 { s with turns := [.host, .core] } = .next t ∧
      Host.Core.run core 2 { s with turns := [.core, .host] } = .next t

/-- R25, R239 and R273: KEY is never shown. Two states that differ in KEY alone step to states that differ in KEY alone, unless the
step completes a successful INIT. (An unspecified read takes the same free value in both, by the model's choice; log 3.) -/
def Obligations.KeyShowsOnlyThroughInit : Prop :=
  ∀ (s : State) (k : KeyBytes), ¬ (completesNow s = true ∧ decode s.pend = .instr (.init .bytes32)) →
    ∃ (t : State) (k' : KeyBytes), step s = .next t ∧ step { s with keyReg := k } = .next { t with keyReg := k' }

/-- R26 and R29: RK while Uninitialized and PEND while idle cannot be observed. States that differ in nothing else step to states that
differ in nothing else, whatever the host does, so the values the model gives RK and PEND at reset (log 4) show in no specified
read. (An unspecified read takes the same free value in both, by the model's choice; log 3.) -/
def Obligations.ResetGarbageIsUnobservable : Prop :=
  ∀ s t : State, Indistinguishable s t →
    ∃ s' t', step s = .next s' ∧ step t = .next t' ∧ Indistinguishable s' t' ∧ t'.readLog = s'.readLog

/-! ## Host sequences -/

/-- R92, with R55: `load_state` and `load_key` leave the block in STATE and the key in KEY, byte k of the argument at byte k of the
register, and change nothing else, from every idle state with no turn planned (log 1, 2). -/
def Obligations.LoadSequencesFillRegisters : Prop :=
  ∀ (s : State) (p : List HostOp), s.busy = false → s.turns = [] →
    (∀ b : Block, Host.Core.run core 4 { s with hostProgram := loadState b ++ p } =
      .next { s with stateReg := b, hostProgram := p }) ∧
    (∀ K : KeyBytes, Host.Core.run core 8 { s with hostProgram := loadKey K ++ p } =
      .next { s with keyReg := K, hostProgram := p })

/-- R90 to R92, R263: `run X` from an idle core issues X, waits for its end and reads STATUS: the core ends in the state the command
leaves, and the host has read its STATUS, with BUSY = 0, twice. (With no turn planned, which is one schedule; log 1, 2.) -/
def Obligations.RunSequenceReportsStatus : Prop :=
  ∀ (s : State) (p : List HostOp) (x : AsmCommand), s.busy = false → s.turns = [] →
    ∃ t, execute { s with pend := x.assemble, busy := true, hostProgram := p } = .next t ∧ t.busy = false ∧
      Host.Core.run core 4 { s with hostProgram := run x ++ p } =
        .next { t with readLog := (0x004, statusWord t) :: (0x004, statusWord t) :: s.readLog }

/-! ## The pending command, step by step -/

/-- R57 and R270: a step while BUSY = 1 that is neither the completion nor the reset leaves the command pending, and its word and every
operand and result register as they are, so the operands read at completion are those of the acceptance. -/
def Obligations.PendingCommandIsKeptByEveryOtherStep : Prop :=
  ∀ s t : State, s.busy = true → completesNow s = false → resetsNow s = false → step s = .next t →
    t.busy = true ∧ t.pend = s.pend ∧ t.stateReg = s.stateReg ∧ t.keyReg = s.keyReg ∧ t.rk = s.rk ∧
    t.keyValid = s.keyValid ∧ t.result = s.result ∧ t.err = s.err
end

