-- ==== Sys2Proof/Laws/State.lean ====
section
/-! SUPPORT. The state's small lemmas: what each named update leaves in each field, and the fields at reset. -/

namespace Sys2Proof.Machine

/-! ### `raiseCmdError` -/

@[simp] theorem raiseCmdError_busy (c : ErrCode) (s : State) : (raiseCmdError c s).busy = false := rfl
@[simp] theorem raiseCmdError_keyValid (c : ErrCode) (s : State) : (raiseCmdError c s).keyValid = s.keyValid := rfl
@[simp] theorem raiseCmdError_ovr (c : ErrCode) (s : State) : (raiseCmdError c s).ovr = s.ovr := rfl
@[simp] theorem raiseCmdError_err (c : ErrCode) (s : State) : (raiseCmdError c s).err = c.bits := rfl
@[simp] theorem raiseCmdError_result (c : ErrCode) (s : State) : (raiseCmdError c s).result = s.result := rfl
@[simp] theorem raiseCmdError_stateReg (c : ErrCode) (s : State) : (raiseCmdError c s).stateReg = s.stateReg := rfl
@[simp] theorem raiseCmdError_keyReg (c : ErrCode) (s : State) : (raiseCmdError c s).keyReg = s.keyReg := rfl
@[simp] theorem raiseCmdError_rk (c : ErrCode) (s : State) : (raiseCmdError c s).rk = s.rk := rfl
@[simp] theorem raiseCmdError_pend (c : ErrCode) (s : State) : (raiseCmdError c s).pend = s.pend := rfl
@[simp] theorem raiseCmdError_hostProgram (c : ErrCode) (s : State) : (raiseCmdError c s).hostProgram = s.hostProgram := rfl
@[simp] theorem raiseCmdError_turns (c : ErrCode) (s : State) : (raiseCmdError c s).turns = s.turns := rfl
@[simp] theorem raiseCmdError_readLog (c : ErrCode) (s : State) : (raiseCmdError c s).readLog = s.readLog := rfl
@[simp] theorem raiseCmdError_freeCount (c : ErrCode) (s : State) : (raiseCmdError c s).freeCount = s.freeCount := rfl

/-! ### `completeOk` -/

@[simp] theorem completeOk_busy (s : State) : (completeOk s).busy = false := rfl
@[simp] theorem completeOk_keyValid (s : State) : (completeOk s).keyValid = s.keyValid := rfl
@[simp] theorem completeOk_ovr (s : State) : (completeOk s).ovr = s.ovr := rfl
@[simp] theorem completeOk_err (s : State) : (completeOk s).err = ErrCode.ok.bits := rfl
@[simp] theorem completeOk_result (s : State) : (completeOk s).result = s.result := rfl
@[simp] theorem completeOk_stateReg (s : State) : (completeOk s).stateReg = s.stateReg := rfl
@[simp] theorem completeOk_keyReg (s : State) : (completeOk s).keyReg = s.keyReg := rfl
@[simp] theorem completeOk_rk (s : State) : (completeOk s).rk = s.rk := rfl
@[simp] theorem completeOk_pend (s : State) : (completeOk s).pend = s.pend := rfl
@[simp] theorem completeOk_hostProgram (s : State) : (completeOk s).hostProgram = s.hostProgram := rfl
@[simp] theorem completeOk_turns (s : State) : (completeOk s).turns = s.turns := rfl
@[simp] theorem completeOk_readLog (s : State) : (completeOk s).readLog = s.readLog := rfl
@[simp] theorem completeOk_freeCount (s : State) : (completeOk s).freeCount = s.freeCount := rfl

/-! ### `finishByte` -/

@[simp] theorem finishByte_busy (r : Byte) (s : State) : (finishByte r s).busy = false := rfl
@[simp] theorem finishByte_keyValid (r : Byte) (s : State) : (finishByte r s).keyValid = s.keyValid := rfl
@[simp] theorem finishByte_ovr (r : Byte) (s : State) : (finishByte r s).ovr = s.ovr := rfl
@[simp] theorem finishByte_err (r : Byte) (s : State) : (finishByte r s).err = ErrCode.ok.bits := rfl
@[simp] theorem finishByte_result (r : Byte) (s : State) : (finishByte r s).result = r := rfl
@[simp] theorem finishByte_stateReg (r : Byte) (s : State) : (finishByte r s).stateReg = s.stateReg := rfl
@[simp] theorem finishByte_keyReg (r : Byte) (s : State) : (finishByte r s).keyReg = s.keyReg := rfl
@[simp] theorem finishByte_rk (r : Byte) (s : State) : (finishByte r s).rk = s.rk := rfl
@[simp] theorem finishByte_pend (r : Byte) (s : State) : (finishByte r s).pend = s.pend := rfl
@[simp] theorem finishByte_hostProgram (r : Byte) (s : State) : (finishByte r s).hostProgram = s.hostProgram := rfl
@[simp] theorem finishByte_turns (r : Byte) (s : State) : (finishByte r s).turns = s.turns := rfl
@[simp] theorem finishByte_readLog (r : Byte) (s : State) : (finishByte r s).readLog = s.readLog := rfl
@[simp] theorem finishByte_freeCount (r : Byte) (s : State) : (finishByte r s).freeCount = s.freeCount := rfl

/-! ### `finishBlock` -/

@[simp] theorem finishBlock_busy (b : Block) (s : State) : (finishBlock b s).busy = false := rfl
@[simp] theorem finishBlock_keyValid (b : Block) (s : State) : (finishBlock b s).keyValid = s.keyValid := rfl
@[simp] theorem finishBlock_ovr (b : Block) (s : State) : (finishBlock b s).ovr = s.ovr := rfl
@[simp] theorem finishBlock_err (b : Block) (s : State) : (finishBlock b s).err = ErrCode.ok.bits := rfl
@[simp] theorem finishBlock_result (b : Block) (s : State) : (finishBlock b s).result = s.result := rfl
@[simp] theorem finishBlock_stateReg (b : Block) (s : State) : (finishBlock b s).stateReg = b := rfl
@[simp] theorem finishBlock_keyReg (b : Block) (s : State) : (finishBlock b s).keyReg = s.keyReg := rfl
@[simp] theorem finishBlock_rk (b : Block) (s : State) : (finishBlock b s).rk = s.rk := rfl
@[simp] theorem finishBlock_pend (b : Block) (s : State) : (finishBlock b s).pend = s.pend := rfl
@[simp] theorem finishBlock_hostProgram (b : Block) (s : State) : (finishBlock b s).hostProgram = s.hostProgram := rfl
@[simp] theorem finishBlock_turns (b : Block) (s : State) : (finishBlock b s).turns = s.turns := rfl
@[simp] theorem finishBlock_readLog (b : Block) (s : State) : (finishBlock b s).readLog = s.readLog := rfl
@[simp] theorem finishBlock_freeCount (b : Block) (s : State) : (finishBlock b s).freeCount = s.freeCount := rfl

/-! ### `finishInit` -/

@[simp] theorem finishInit_busy (w : Schedule) (s : State) : (finishInit w s).busy = false := rfl
@[simp] theorem finishInit_keyValid (w : Schedule) (s : State) : (finishInit w s).keyValid = true := rfl
@[simp] theorem finishInit_ovr (w : Schedule) (s : State) : (finishInit w s).ovr = s.ovr := rfl
@[simp] theorem finishInit_err (w : Schedule) (s : State) : (finishInit w s).err = ErrCode.ok.bits := rfl
@[simp] theorem finishInit_result (w : Schedule) (s : State) : (finishInit w s).result = s.result := rfl
@[simp] theorem finishInit_stateReg (w : Schedule) (s : State) : (finishInit w s).stateReg = s.stateReg := rfl
@[simp] theorem finishInit_keyReg (w : Schedule) (s : State) : (finishInit w s).keyReg = s.keyReg := rfl
@[simp] theorem finishInit_rk (w : Schedule) (s : State) : (finishInit w s).rk = w := rfl
@[simp] theorem finishInit_pend (w : Schedule) (s : State) : (finishInit w s).pend = s.pend := rfl
@[simp] theorem finishInit_hostProgram (w : Schedule) (s : State) : (finishInit w s).hostProgram = s.hostProgram := rfl
@[simp] theorem finishInit_turns (w : Schedule) (s : State) : (finishInit w s).turns = s.turns := rfl
@[simp] theorem finishInit_readLog (w : Schedule) (s : State) : (finishInit w s).readLog = s.readLog := rfl
@[simp] theorem finishInit_freeCount (w : Schedule) (s : State) : (finishInit w s).freeCount = s.freeCount := rfl

/-! ### `acceptCommand` -/

@[simp] theorem acceptCommand_busy (v : Word) (s : State) : (acceptCommand v s).busy = true := rfl
@[simp] theorem acceptCommand_keyValid (v : Word) (s : State) : (acceptCommand v s).keyValid = s.keyValid := rfl
@[simp] theorem acceptCommand_ovr (v : Word) (s : State) : (acceptCommand v s).ovr = s.ovr := rfl
@[simp] theorem acceptCommand_err (v : Word) (s : State) : (acceptCommand v s).err = s.err := rfl
@[simp] theorem acceptCommand_result (v : Word) (s : State) : (acceptCommand v s).result = s.result := rfl
@[simp] theorem acceptCommand_stateReg (v : Word) (s : State) : (acceptCommand v s).stateReg = s.stateReg := rfl
@[simp] theorem acceptCommand_keyReg (v : Word) (s : State) : (acceptCommand v s).keyReg = s.keyReg := rfl
@[simp] theorem acceptCommand_rk (v : Word) (s : State) : (acceptCommand v s).rk = s.rk := rfl
@[simp] theorem acceptCommand_pend (v : Word) (s : State) : (acceptCommand v s).pend = v := rfl
@[simp] theorem acceptCommand_hostProgram (v : Word) (s : State) : (acceptCommand v s).hostProgram = s.hostProgram := rfl
@[simp] theorem acceptCommand_turns (v : Word) (s : State) : (acceptCommand v s).turns = s.turns := rfl
@[simp] theorem acceptCommand_readLog (v : Word) (s : State) : (acceptCommand v s).readLog = s.readLog := rfl
@[simp] theorem acceptCommand_freeCount (v : Word) (s : State) : (acceptCommand v s).freeCount = s.freeCount := rfl

/-! ### `setOverrun` -/

@[simp] theorem setOverrun_busy (s : State) : (setOverrun s).busy = s.busy := rfl
@[simp] theorem setOverrun_keyValid (s : State) : (setOverrun s).keyValid = s.keyValid := rfl
@[simp] theorem setOverrun_ovr (s : State) : (setOverrun s).ovr = true := rfl
@[simp] theorem setOverrun_err (s : State) : (setOverrun s).err = s.err := rfl
@[simp] theorem setOverrun_result (s : State) : (setOverrun s).result = s.result := rfl
@[simp] theorem setOverrun_stateReg (s : State) : (setOverrun s).stateReg = s.stateReg := rfl
@[simp] theorem setOverrun_keyReg (s : State) : (setOverrun s).keyReg = s.keyReg := rfl
@[simp] theorem setOverrun_rk (s : State) : (setOverrun s).rk = s.rk := rfl
@[simp] theorem setOverrun_pend (s : State) : (setOverrun s).pend = s.pend := rfl
@[simp] theorem setOverrun_hostProgram (s : State) : (setOverrun s).hostProgram = s.hostProgram := rfl
@[simp] theorem setOverrun_turns (s : State) : (setOverrun s).turns = s.turns := rfl
@[simp] theorem setOverrun_readLog (s : State) : (setOverrun s).readLog = s.readLog := rfl
@[simp] theorem setOverrun_freeCount (s : State) : (setOverrun s).freeCount = s.freeCount := rfl

/-! ### `writeStateWord` -/

@[simp] theorem writeStateWord_busy (j : Fin 4) (v : Word) (s : State) : (writeStateWord j v s).busy = s.busy := by
  unfold writeStateWord; rfl
@[simp] theorem writeStateWord_keyValid (j : Fin 4) (v : Word) (s : State) : (writeStateWord j v s).keyValid = s.keyValid := by
  unfold writeStateWord; rfl
@[simp] theorem writeStateWord_ovr (j : Fin 4) (v : Word) (s : State) : (writeStateWord j v s).ovr = s.ovr := by
  unfold writeStateWord; rfl
@[simp] theorem writeStateWord_err (j : Fin 4) (v : Word) (s : State) : (writeStateWord j v s).err = s.err := by
  unfold writeStateWord; rfl
@[simp] theorem writeStateWord_result (j : Fin 4) (v : Word) (s : State) : (writeStateWord j v s).result = s.result := by
  unfold writeStateWord; rfl
@[simp] theorem writeStateWord_stateReg (j : Fin 4) (v : Word) (s : State) : (writeStateWord j v s).stateReg = writeLanes s.stateReg (4 * j.val) v := by
  unfold writeStateWord; rfl
@[simp] theorem writeStateWord_keyReg (j : Fin 4) (v : Word) (s : State) : (writeStateWord j v s).keyReg = s.keyReg := by
  unfold writeStateWord; rfl
@[simp] theorem writeStateWord_rk (j : Fin 4) (v : Word) (s : State) : (writeStateWord j v s).rk = s.rk := by
  unfold writeStateWord; rfl
@[simp] theorem writeStateWord_pend (j : Fin 4) (v : Word) (s : State) : (writeStateWord j v s).pend = s.pend := by
  unfold writeStateWord; rfl
@[simp] theorem writeStateWord_hostProgram (j : Fin 4) (v : Word) (s : State) : (writeStateWord j v s).hostProgram = s.hostProgram := by
  unfold writeStateWord; rfl
@[simp] theorem writeStateWord_turns (j : Fin 4) (v : Word) (s : State) : (writeStateWord j v s).turns = s.turns := by
  unfold writeStateWord; rfl
@[simp] theorem writeStateWord_readLog (j : Fin 4) (v : Word) (s : State) : (writeStateWord j v s).readLog = s.readLog := by
  unfold writeStateWord; rfl
@[simp] theorem writeStateWord_freeCount (j : Fin 4) (v : Word) (s : State) : (writeStateWord j v s).freeCount = s.freeCount := by
  unfold writeStateWord; rfl

/-! ### `writeKeyWord` -/

@[simp] theorem writeKeyWord_busy (j : Fin 8) (v : Word) (s : State) : (writeKeyWord j v s).busy = s.busy := by
  unfold writeKeyWord; rfl
@[simp] theorem writeKeyWord_keyValid (j : Fin 8) (v : Word) (s : State) : (writeKeyWord j v s).keyValid = s.keyValid := by
  unfold writeKeyWord; rfl
@[simp] theorem writeKeyWord_ovr (j : Fin 8) (v : Word) (s : State) : (writeKeyWord j v s).ovr = s.ovr := by
  unfold writeKeyWord; rfl
@[simp] theorem writeKeyWord_err (j : Fin 8) (v : Word) (s : State) : (writeKeyWord j v s).err = s.err := by
  unfold writeKeyWord; rfl
@[simp] theorem writeKeyWord_result (j : Fin 8) (v : Word) (s : State) : (writeKeyWord j v s).result = s.result := by
  unfold writeKeyWord; rfl
@[simp] theorem writeKeyWord_stateReg (j : Fin 8) (v : Word) (s : State) : (writeKeyWord j v s).stateReg = s.stateReg := by
  unfold writeKeyWord; rfl
@[simp] theorem writeKeyWord_keyReg (j : Fin 8) (v : Word) (s : State) : (writeKeyWord j v s).keyReg = writeLanes s.keyReg (4 * j.val) v := by
  unfold writeKeyWord; rfl
@[simp] theorem writeKeyWord_rk (j : Fin 8) (v : Word) (s : State) : (writeKeyWord j v s).rk = s.rk := by
  unfold writeKeyWord; rfl
@[simp] theorem writeKeyWord_pend (j : Fin 8) (v : Word) (s : State) : (writeKeyWord j v s).pend = s.pend := by
  unfold writeKeyWord; rfl
@[simp] theorem writeKeyWord_hostProgram (j : Fin 8) (v : Word) (s : State) : (writeKeyWord j v s).hostProgram = s.hostProgram := by
  unfold writeKeyWord; rfl
@[simp] theorem writeKeyWord_turns (j : Fin 8) (v : Word) (s : State) : (writeKeyWord j v s).turns = s.turns := by
  unfold writeKeyWord; rfl
@[simp] theorem writeKeyWord_readLog (j : Fin 8) (v : Word) (s : State) : (writeKeyWord j v s).readLog = s.readLog := by
  unfold writeKeyWord; rfl
@[simp] theorem writeKeyWord_freeCount (j : Fin 8) (v : Word) (s : State) : (writeKeyWord j v s).freeCount = s.freeCount := by
  unfold writeKeyWord; rfl

/-! ### `logRead` -/

@[simp] theorem logRead_busy (off : Offset) (v : Word) (s : State) : (logRead off v s).busy = s.busy := rfl
@[simp] theorem logRead_keyValid (off : Offset) (v : Word) (s : State) : (logRead off v s).keyValid = s.keyValid := rfl
@[simp] theorem logRead_ovr (off : Offset) (v : Word) (s : State) : (logRead off v s).ovr = s.ovr := rfl
@[simp] theorem logRead_err (off : Offset) (v : Word) (s : State) : (logRead off v s).err = s.err := rfl
@[simp] theorem logRead_result (off : Offset) (v : Word) (s : State) : (logRead off v s).result = s.result := rfl
@[simp] theorem logRead_stateReg (off : Offset) (v : Word) (s : State) : (logRead off v s).stateReg = s.stateReg := rfl
@[simp] theorem logRead_keyReg (off : Offset) (v : Word) (s : State) : (logRead off v s).keyReg = s.keyReg := rfl
@[simp] theorem logRead_rk (off : Offset) (v : Word) (s : State) : (logRead off v s).rk = s.rk := rfl
@[simp] theorem logRead_pend (off : Offset) (v : Word) (s : State) : (logRead off v s).pend = s.pend := rfl
@[simp] theorem logRead_hostProgram (off : Offset) (v : Word) (s : State) : (logRead off v s).hostProgram = s.hostProgram := rfl
@[simp] theorem logRead_turns (off : Offset) (v : Word) (s : State) : (logRead off v s).turns = s.turns := rfl
@[simp] theorem logRead_readLog (off : Offset) (v : Word) (s : State) : (logRead off v s).readLog = (off, v) :: s.readLog := rfl
@[simp] theorem logRead_freeCount (off : Offset) (v : Word) (s : State) : (logRead off v s).freeCount = s.freeCount := rfl

/-! ### `logFreeRead` -/

@[simp] theorem logFreeRead_busy (off : Offset) (s : State) : (logFreeRead off s).busy = s.busy := rfl
@[simp] theorem logFreeRead_keyValid (off : Offset) (s : State) : (logFreeRead off s).keyValid = s.keyValid := rfl
@[simp] theorem logFreeRead_ovr (off : Offset) (s : State) : (logFreeRead off s).ovr = s.ovr := rfl
@[simp] theorem logFreeRead_err (off : Offset) (s : State) : (logFreeRead off s).err = s.err := rfl
@[simp] theorem logFreeRead_result (off : Offset) (s : State) : (logFreeRead off s).result = s.result := rfl
@[simp] theorem logFreeRead_stateReg (off : Offset) (s : State) : (logFreeRead off s).stateReg = s.stateReg := rfl
@[simp] theorem logFreeRead_keyReg (off : Offset) (s : State) : (logFreeRead off s).keyReg = s.keyReg := rfl
@[simp] theorem logFreeRead_rk (off : Offset) (s : State) : (logFreeRead off s).rk = s.rk := rfl
@[simp] theorem logFreeRead_pend (off : Offset) (s : State) : (logFreeRead off s).pend = s.pend := rfl
@[simp] theorem logFreeRead_hostProgram (off : Offset) (s : State) : (logFreeRead off s).hostProgram = s.hostProgram := rfl
@[simp] theorem logFreeRead_turns (off : Offset) (s : State) : (logFreeRead off s).turns = s.turns := rfl
@[simp] theorem logFreeRead_readLog (off : Offset) (s : State) : (logFreeRead off s).readLog = (off, Config.freeRead s.freeCount) :: s.readLog := rfl
@[simp] theorem logFreeRead_freeCount (off : Offset) (s : State) : (logFreeRead off s).freeCount = s.freeCount + 1 := rfl

/-! ### `resetCore` -/

@[simp] theorem resetCore_busy (s : State) : (resetCore s).busy = State.reset.busy := rfl
@[simp] theorem resetCore_keyValid (s : State) : (resetCore s).keyValid = State.reset.keyValid := rfl
@[simp] theorem resetCore_ovr (s : State) : (resetCore s).ovr = State.reset.ovr := rfl
@[simp] theorem resetCore_err (s : State) : (resetCore s).err = State.reset.err := rfl
@[simp] theorem resetCore_result (s : State) : (resetCore s).result = State.reset.result := rfl
@[simp] theorem resetCore_stateReg (s : State) : (resetCore s).stateReg = State.reset.stateReg := rfl
@[simp] theorem resetCore_keyReg (s : State) : (resetCore s).keyReg = State.reset.keyReg := rfl
@[simp] theorem resetCore_rk (s : State) : (resetCore s).rk = State.reset.rk := rfl
@[simp] theorem resetCore_pend (s : State) : (resetCore s).pend = State.reset.pend := rfl
@[simp] theorem resetCore_hostProgram (s : State) : (resetCore s).hostProgram = s.hostProgram := rfl
@[simp] theorem resetCore_turns (s : State) : (resetCore s).turns = s.turns := rfl
@[simp] theorem resetCore_readLog (s : State) : (resetCore s).readLog = s.readLog := rfl
@[simp] theorem resetCore_freeCount (s : State) : (resetCore s).freeCount = s.freeCount := rfl

/-! ### `placeCommand` -/

@[simp] theorem placeCommand_busy (cw : Word) (s : State) : (placeCommand cw s).busy = true := rfl
@[simp] theorem placeCommand_keyValid (cw : Word) (s : State) : (placeCommand cw s).keyValid = s.keyValid := rfl
@[simp] theorem placeCommand_ovr (cw : Word) (s : State) : (placeCommand cw s).ovr = s.ovr := rfl
@[simp] theorem placeCommand_err (cw : Word) (s : State) : (placeCommand cw s).err = s.err := rfl
@[simp] theorem placeCommand_result (cw : Word) (s : State) : (placeCommand cw s).result = s.result := rfl
@[simp] theorem placeCommand_stateReg (cw : Word) (s : State) : (placeCommand cw s).stateReg = s.stateReg := rfl
@[simp] theorem placeCommand_keyReg (cw : Word) (s : State) : (placeCommand cw s).keyReg = s.keyReg := rfl
@[simp] theorem placeCommand_rk (cw : Word) (s : State) : (placeCommand cw s).rk = s.rk := rfl
@[simp] theorem placeCommand_pend (cw : Word) (s : State) : (placeCommand cw s).pend = cw := rfl
@[simp] theorem placeCommand_hostProgram (cw : Word) (s : State) : (placeCommand cw s).hostProgram = s.hostProgram := rfl
@[simp] theorem placeCommand_turns (cw : Word) (s : State) : (placeCommand cw s).turns = .core :: s.turns := rfl
@[simp] theorem placeCommand_readLog (cw : Word) (s : State) : (placeCommand cw s).readLog = s.readLog := rfl
@[simp] theorem placeCommand_freeCount (cw : Word) (s : State) : (placeCommand cw s).freeCount = s.freeCount := rfl

/-! ### `writeStatus` -/

theorem writeStatus_eq (v : Word) (s : State) : writeStatus v s = { s with ovr := s.ovr && !v.getLsbD 3 } := by
  unfold writeStatus
  split <;> rename_i h <;> simp at h <;> simp [h]

/-! ### The state after reset (R260) -/

@[simp] theorem reset_busy : State.reset.busy = false := rfl
@[simp] theorem reset_keyValid : State.reset.keyValid = false := rfl
@[simp] theorem reset_ovr : State.reset.ovr = false := rfl
@[simp] theorem reset_err : State.reset.err = 0 := rfl
@[simp] theorem reset_result : State.reset.result = 0 := rfl

/-! ### The codes of STATUS.ERR (R230) -/

@[simp] theorem bits_ok : ErrCode.ok.bits = 0x0 := rfl
@[simp] theorem bits_illegalCommand : ErrCode.illegalCommand.bits = 0x1 := rfl
@[simp] theorem bits_invalidKeyLength : ErrCode.invalidKeyLength.bits = 0x2 := rfl
@[simp] theorem bits_notInitialized : ErrCode.notInitialized.bits = 0x3 := rfl
@[simp] theorem bits_badRoundIndex : ErrCode.badRoundIndex.bits = 0x4 := rfl

theorem ErrCode.bits_legal (c : ErrCode) : legalErr c.bits = true := by cases c <;> rfl

end Sys2Proof.Machine
end

