-- ==== Sys2Proof/Laws/Decode.lean ====
section
/-! SUPPORT. The decoder unfolded once, row by row, and the fields of a packed command. -/

namespace Sys2Proof

/-- The decoder on a list of rows. -/
def decodeRows (rows : List Row) (cw : Word) : Decoded :=
  match rows.find? (fun r => r.selects cw) with
  | some r => .instr (r.build cw)
  | none => .illegal (illegalReason cw)

theorem decode_eq_decodeRows (cw : Word) : decode cw = decodeRows opcodeTable cw := rfl

/-- The first row is tried first (R85). -/
theorem decodeRows_cons (r : Row) (rows : List Row) (cw : Word) :
    decodeRows (r :: rows) cw = if cw &&& r.mask = r.value then .instr (r.build cw) else decodeRows rows cw := by
  unfold decodeRows
  by_cases h : cw &&& r.mask = r.value
  · simp [List.find?, Row.selects, h]
  · have hb : (cw &&& r.mask == r.value) = false := by simpa using h
    simp [List.find?, Row.selects, h, hb]

theorem decodeRows_nil (cw : Word) : decodeRows [] cw = .illegal (illegalReason cw) := rfl

/-- R85 with the rows of R83 written out. -/
theorem decode_eq_rows (cw : Word) : decode cw =
    if cw &&& 0xFFFFCFFF = 0x00000001 then .instr (.init (keySelOfBits (fieldKsz cw)))
    else if cw &&& 0xFFFFFFFF = 0x00000002 then .instr .encrypt
    else if cw &&& 0xFFFFFFFF = 0x00000003 then .instr .decrypt
    else if cw &&& 0xFFFFFFFF = 0x00000004 then .instr .subBytes
    else if cw &&& 0xFFFFFFFF = 0x00000005 then .instr .invSubBytes
    else if cw &&& 0xFFFFFFFF = 0x00000006 then .instr .shiftRows
    else if cw &&& 0xFFFFFFFF = 0x00000007 then .instr .invShiftRows
    else if cw &&& 0xFFFFFFFF = 0x00000008 then .instr .mixColumns
    else if cw &&& 0xFFFFFFFF = 0x00000009 then .instr .invMixColumns
    else if cw &&& 0xFFFFF0FF = 0x0000000A then .instr (.addRoundKey (fieldRidx cw).toNat)
    else if cw &&& 0x0000FFFF = 0x00000010 then .instr (.gfAdd (fieldA cw) (fieldB cw))
    else if cw &&& 0x0000FFFF = 0x00000011 then .instr (.gfMul (fieldA cw) (fieldB cw))
    else if cw &&& 0xFF00FFFF = 0x00000012 then .instr (.gfInv (fieldA cw))
    else if cw &&& 0xFF00FFFF = 0x00000013 then .instr (.sboxFwd (fieldA cw))
    else if cw &&& 0xFF00FFFF = 0x00000014 then .instr (.sboxInv (fieldA cw))
    else .illegal (illegalReason cw) := by
  rw [decode_eq_decodeRows]
  unfold opcodeTable
  simp only [List.cons_append, List.nil_append, decodeRows_cons, decodeRows_nil]

/-- Everything decoding can answer: the row a word selects, or, when it selects none, a rejection (R85). -/
theorem decode_cases (cw : Word) :
    (cw &&& 0xFFFFCFFF = 0x00000001 ∧ decode cw = .instr (.init (keySelOfBits (fieldKsz cw)))) ∨
    (cw &&& 0xFFFFFFFF = 0x00000002 ∧ decode cw = .instr (.encrypt)) ∨
    (cw &&& 0xFFFFFFFF = 0x00000003 ∧ decode cw = .instr (.decrypt)) ∨
    (cw &&& 0xFFFFFFFF = 0x00000004 ∧ decode cw = .instr (.subBytes)) ∨
    (cw &&& 0xFFFFFFFF = 0x00000005 ∧ decode cw = .instr (.invSubBytes)) ∨
    (cw &&& 0xFFFFFFFF = 0x00000006 ∧ decode cw = .instr (.shiftRows)) ∨
    (cw &&& 0xFFFFFFFF = 0x00000007 ∧ decode cw = .instr (.invShiftRows)) ∨
    (cw &&& 0xFFFFFFFF = 0x00000008 ∧ decode cw = .instr (.mixColumns)) ∨
    (cw &&& 0xFFFFFFFF = 0x00000009 ∧ decode cw = .instr (.invMixColumns)) ∨
    (cw &&& 0xFFFFF0FF = 0x0000000A ∧ decode cw = .instr (.addRoundKey (fieldRidx cw).toNat)) ∨
    (cw &&& 0x0000FFFF = 0x00000010 ∧ decode cw = .instr (.gfAdd (fieldA cw) (fieldB cw))) ∨
    (cw &&& 0x0000FFFF = 0x00000011 ∧ decode cw = .instr (.gfMul (fieldA cw) (fieldB cw))) ∨
    (cw &&& 0xFF00FFFF = 0x00000012 ∧ decode cw = .instr (.gfInv (fieldA cw))) ∨
    (cw &&& 0xFF00FFFF = 0x00000013 ∧ decode cw = .instr (.sboxFwd (fieldA cw))) ∨
    (cw &&& 0xFF00FFFF = 0x00000014 ∧ decode cw = .instr (.sboxInv (fieldA cw))) ∨
    ((cw &&& 0xFFFFCFFF ≠ 0x00000001 ∧ cw &&& 0xFFFFFFFF ≠ 0x00000002 ∧ cw &&& 0xFFFFFFFF ≠ 0x00000003 ∧
      cw &&& 0xFFFFFFFF ≠ 0x00000004 ∧ cw &&& 0xFFFFFFFF ≠ 0x00000005 ∧ cw &&& 0xFFFFFFFF ≠ 0x00000006 ∧
      cw &&& 0xFFFFFFFF ≠ 0x00000007 ∧ cw &&& 0xFFFFFFFF ≠ 0x00000008 ∧ cw &&& 0xFFFFFFFF ≠ 0x00000009 ∧
      cw &&& 0xFFFFF0FF ≠ 0x0000000A ∧ cw &&& 0x0000FFFF ≠ 0x00000010 ∧ cw &&& 0x0000FFFF ≠ 0x00000011 ∧
      cw &&& 0xFF00FFFF ≠ 0x00000012 ∧ cw &&& 0xFF00FFFF ≠ 0x00000013 ∧ cw &&& 0xFF00FFFF ≠ 0x00000014) ∧
      decode cw = .illegal (illegalReason cw)) := by
  rw [decode_eq_rows]
  by_cases h0 : cw &&& 0xFFFFCFFF = 0x00000001
  · rw [if_pos h0]; exact Or.inl ⟨h0, rfl⟩
  rw [if_neg h0]
  by_cases h1 : cw &&& 0xFFFFFFFF = 0x00000002
  · rw [if_pos h1]; exact Or.inr (Or.inl ⟨h1, rfl⟩)
  rw [if_neg h1]
  by_cases h2 : cw &&& 0xFFFFFFFF = 0x00000003
  · rw [if_pos h2]; exact Or.inr (Or.inr (Or.inl ⟨h2, rfl⟩))
  rw [if_neg h2]
  by_cases h3 : cw &&& 0xFFFFFFFF = 0x00000004
  · rw [if_pos h3]; exact Or.inr (Or.inr (Or.inr (Or.inl ⟨h3, rfl⟩)))
  rw [if_neg h3]
  by_cases h4 : cw &&& 0xFFFFFFFF = 0x00000005
  · rw [if_pos h4]; exact Or.inr (Or.inr (Or.inr (Or.inr (Or.inl ⟨h4, rfl⟩))))
  rw [if_neg h4]
  by_cases h5 : cw &&& 0xFFFFFFFF = 0x00000006
  · rw [if_pos h5]; exact Or.inr (Or.inr (Or.inr (Or.inr (Or.inr (Or.inl ⟨h5, rfl⟩)))))
  rw [if_neg h5]
  by_cases h6 : cw &&& 0xFFFFFFFF = 0x00000007
  · rw [if_pos h6]; exact Or.inr (Or.inr (Or.inr (Or.inr (Or.inr (Or.inr (Or.inl ⟨h6, rfl⟩))))))
  rw [if_neg h6]
  by_cases h7 : cw &&& 0xFFFFFFFF = 0x00000008
  · rw [if_pos h7]; exact Or.inr (Or.inr (Or.inr (Or.inr (Or.inr (Or.inr (Or.inr (Or.inl ⟨h7, rfl⟩)))))))
  rw [if_neg h7]
  by_cases h8 : cw &&& 0xFFFFFFFF = 0x00000009
  · rw [if_pos h8]; exact Or.inr (Or.inr (Or.inr (Or.inr (Or.inr (Or.inr (Or.inr (Or.inr (Or.inl ⟨h8, rfl⟩))))))))
  rw [if_neg h8]
  by_cases h9 : cw &&& 0xFFFFF0FF = 0x0000000A
  · rw [if_pos h9]; exact Or.inr (Or.inr (Or.inr (Or.inr (Or.inr (Or.inr (Or.inr (Or.inr (Or.inr (Or.inl ⟨h9, rfl⟩)))))))))
  rw [if_neg h9]
  by_cases h10 : cw &&& 0x0000FFFF = 0x00000010
  · rw [if_pos h10]; exact Or.inr (Or.inr (Or.inr (Or.inr (Or.inr (Or.inr (Or.inr (Or.inr (Or.inr (Or.inr (Or.inl ⟨h10, rfl⟩))))))))))
  rw [if_neg h10]
  by_cases h11 : cw &&& 0x0000FFFF = 0x00000011
  · rw [if_pos h11]; exact Or.inr (Or.inr (Or.inr (Or.inr (Or.inr (Or.inr (Or.inr (Or.inr (Or.inr (Or.inr (Or.inr (Or.inl ⟨h11, rfl⟩)))))))))))
  rw [if_neg h11]
  by_cases h12 : cw &&& 0xFF00FFFF = 0x00000012
  · rw [if_pos h12]; exact Or.inr (Or.inr (Or.inr (Or.inr (Or.inr (Or.inr (Or.inr (Or.inr (Or.inr (Or.inr (Or.inr (Or.inr (Or.inl ⟨h12, rfl⟩))))))))))))
  rw [if_neg h12]
  by_cases h13 : cw &&& 0xFF00FFFF = 0x00000013
  · rw [if_pos h13]; exact Or.inr (Or.inr (Or.inr (Or.inr (Or.inr (Or.inr (Or.inr (Or.inr (Or.inr (Or.inr (Or.inr (Or.inr (Or.inr (Or.inl ⟨h13, rfl⟩)))))))))))))
  rw [if_neg h13]
  by_cases h14 : cw &&& 0xFF00FFFF = 0x00000014
  · rw [if_pos h14]; exact Or.inr (Or.inr (Or.inr (Or.inr (Or.inr (Or.inr (Or.inr (Or.inr (Or.inr (Or.inr (Or.inr (Or.inr (Or.inr (Or.inr (Or.inl ⟨h14, rfl⟩))))))))))))))
  rw [if_neg h14]
  exact Or.inr (Or.inr (Or.inr (Or.inr (Or.inr (Or.inr (Or.inr (Or.inr (Or.inr (Or.inr (Or.inr (Or.inr (Or.inr (Or.inr (Or.inr (⟨⟨h0, h1, h2, h3, h4, h5, h6, h7, h8, h9, h10, h11, h12, h13, h14⟩, rfl⟩)))))))))))))))

/-! ### The fields of a packed command (R80) -/

@[simp] theorem fieldOp_pack (b a : Byte) (k : BitVec 2) (r : BitVec 4) (op : BitVec 5) :
    fieldOp (packCommand b a k r op) = op := by
  apply BitVec.eq_of_getLsbD_eq
  intro i hi
  simp only [fieldOp, packCommand, BitVec.getLsbD_extractLsb', BitVec.getLsbD_append]
  interval_cases i <;> simp

@[simp] theorem fieldRidx_pack (b a : Byte) (k : BitVec 2) (r : BitVec 4) (op : BitVec 5) :
    fieldRidx (packCommand b a k r op) = r := by
  apply BitVec.eq_of_getLsbD_eq
  intro i hi
  simp only [fieldRidx, packCommand, BitVec.getLsbD_extractLsb', BitVec.getLsbD_append]
  interval_cases i <;> simp

@[simp] theorem fieldKsz_pack (b a : Byte) (k : BitVec 2) (r : BitVec 4) (op : BitVec 5) :
    fieldKsz (packCommand b a k r op) = k := by
  apply BitVec.eq_of_getLsbD_eq
  intro i hi
  simp only [fieldKsz, packCommand, BitVec.getLsbD_extractLsb', BitVec.getLsbD_append]
  interval_cases i <;> simp

@[simp] theorem fieldA_pack (b a : Byte) (k : BitVec 2) (r : BitVec 4) (op : BitVec 5) :
    fieldA (packCommand b a k r op) = a := by
  apply BitVec.eq_of_getLsbD_eq
  intro i hi
  simp only [fieldA, packCommand, BitVec.getLsbD_extractLsb', BitVec.getLsbD_append]
  interval_cases i <;> simp

@[simp] theorem fieldB_pack (b a : Byte) (k : BitVec 2) (r : BitVec 4) (op : BitVec 5) :
    fieldB (packCommand b a k r op) = b := by
  apply BitVec.eq_of_getLsbD_eq
  intro i hi
  simp only [fieldB, packCommand, BitVec.getLsbD_extractLsb', BitVec.getLsbD_append]
  interval_cases i <;> simp

@[simp] theorem keySelOfBits_bits (k : KeySel) : keySelOfBits (keySelBits k) = k := by cases k <;> rfl

end Sys2Proof
end

