-- ==== Sys2Proof/Laws/Ops.lean ====
section
/-! SUPPORT. What the shared operations over registers and bus words do, each said once. -/

namespace Sys2Proof.Machine

/-! ### Offsets and registers (R51, R61) -/

theorem busReg_congr {off off' : Offset} (h : off.extractLsb' 2 7 = off'.extractLsb' 2 7) : busReg off = busReg off' := by
  unfold busReg
  rw [h]

/-- Which word indexes name which register. -/
theorem busRegOfIndex_cases (w : Nat) :
    (w = 0 ∧ busRegOfIndex w = .cmd) ∨ (w = 1 ∧ busRegOfIndex w = .status) ∨ (w = 2 ∧ busRegOfIndex w = .result) ∨
    (∃ h : 4 ≤ w ∧ w ≤ 7, busRegOfIndex w = .state ⟨w - 4, by omega⟩) ∨
    (∃ h : 8 ≤ w ∧ w ≤ 15, busRegOfIndex w = .key ⟨w - 8, by omega⟩) ∨
    (∃ h : 64 ≤ w ∧ w ≤ 123, busRegOfIndex w = .rk ⟨w - 64, by omega⟩) ∨
    ((w = 3 ∨ (16 ≤ w ∧ w ≤ 63) ∨ 124 ≤ w) ∧ busRegOfIndex w = .reserved) := by
  unfold busRegOfIndex
  split
  · exact .inl ⟨‹_›, rfl⟩
  split
  · exact .inr (.inl ⟨‹_›, rfl⟩)
  split
  · exact .inr (.inr (.inl ⟨‹_›, rfl⟩))
  split
  · exact .inr (.inr (.inr (.inl ⟨‹_›, rfl⟩)))
  split
  · exact .inr (.inr (.inr (.inr (.inl ⟨‹_›, rfl⟩))))
  split
  · exact .inr (.inr (.inr (.inr (.inr (.inl ⟨‹_›, rfl⟩)))))
  · exact .inr (.inr (.inr (.inr (.inr (.inr ⟨by omega, rfl⟩)))))

/-! ### Byte lanes (R55) -/

theorem writeLanes_getElem {n : Nat} (A : Vector Byte n) (base : Nat) (v : Word) (i : Nat) (h : i < n) :
    (writeLanes A base v)[i] = if base ≤ i ∧ i < base + 4 then lane v (i - base) else A[i] := by
  simp [writeLanes]

/-- A written byte is its lane of the word. -/
theorem writeLanes_inside {n : Nat} (A : Vector Byte n) (base : Nat) (v : Word) (k : Nat) (hk : k < 4) (h : base + k < n) :
    (writeLanes A base v)[base + k] = lane v k := by
  rw [writeLanes_getElem, if_pos (by omega), Nat.add_sub_cancel_left]

/-- Every other byte is as before. -/
theorem writeLanes_outside {n : Nat} (A : Vector Byte n) (base : Nat) (v : Word) (i : Nat) (h : i < n)
    (ho : i < base ∨ base + 4 ≤ i) : (writeLanes A base v)[i] = A[i] := by
  rw [writeLanes_getElem, if_neg (by omega)]

/-- Lane `k` of a word put together from four bytes is byte `k`. -/
theorem lane_append (b3 b2 b1 b0 : Byte) :
    lane (b3 ++ b2 ++ b1 ++ b0) 0 = b0 ∧ lane (b3 ++ b2 ++ b1 ++ b0) 1 = b1 ∧
    lane (b3 ++ b2 ++ b1 ++ b0) 2 = b2 ∧ lane (b3 ++ b2 ++ b1 ++ b0) 3 = b3 := by
  refine ⟨?_, ?_, ?_, ?_⟩ <;> ext i hi <;>
    simp [lane] <;> grind

/-- A word is its four lanes. -/
theorem append_lanes (v : Word) : lane v 3 ++ lane v 2 ++ lane v 1 ++ lane v 0 = v := by
  ext i hi
  simp [lane]
  grind

/-- Lane `k` of `LaneWord(A, base)` is byte `base + k`. -/
theorem lane_laneWord {n : Nat} (A : Vector Byte n) (base : Nat) (h : base + 3 < n) (k : Nat) (hk : k < 4) :
    lane (laneWord A base h) k = A[base + k] := by
  obtain ⟨h0, h1, h2, h3⟩ := lane_append A[base + 3] A[base + 2] A[base + 1] A[base]
  match k, hk with
  | 0, _ => exact h0
  | 1, _ => exact h1
  | 2, _ => exact h2
  | 3, _ => exact h3

/-- What was written in the lanes of a word reads back as that word. -/
theorem laneWord_writeLanes {n : Nat} (A : Vector Byte n) (base : Nat) (h : base + 3 < n) (v : Word) :
    laneWord (writeLanes A base v) base h = v := by
  have h0 := writeLanes_inside A base v 0 (by decide) (by omega)
  have h1 := writeLanes_inside A base v 1 (by decide) (by omega)
  have h2 := writeLanes_inside A base v 2 (by decide) (by omega)
  have h3 := writeLanes_inside A base v 3 (by decide) (by omega)
  simp only [Nat.add_zero] at h0
  unfold laneWord
  rw [h0, h1, h2, h3]
  exact append_lanes v

/-! ### The free values of busy reads (R59) -/

theorem hostRead_of_some {off : Offset} {s : State} {v : Word} (h : busRead off s = some v) :
    hostRead off s = logRead off v s := by
  simp [hostRead, h]

theorem hostRead_of_none {off : Offset} {s : State} (h : busRead off s = none) :
    hostRead off s = logFreeRead off s := by
  simp [hostRead, h]

/-- BUSY is bit 0 of STATUS (R31). -/
@[simp] theorem statusShowsBusy_eq (s : State) : statusShowsBusy s = s.busy := by
  unfold statusShowsBusy statusWord
  simp only [BitVec.getLsbD_setWidth, BitVec.getLsbD_append]
  simp

end Sys2Proof.Machine
end

