-- ==== Sys2Proof/Laws/Exec.lean ====
section
/-! SUPPORT. What a command can do at its completion, said once: the four shapes of R232 and R88. -/

namespace Sys2Proof.Machine

/-- Everything a command can do: it answers a next state, which is a raised error, or RESULT written, or STATE written, or the
schedule of the current key written by INIT. -/
theorem exec_cases (i : Instr) (s : State) : ∃ t, exec i s = .next t ∧
    ((∃ c, c ≠ .ok ∧ t = raiseCmdError c s) ∨ (∃ r, t = finishByte r s) ∨ (∃ b, t = finishBlock b s) ∨
      (i = .init .bytes32 ∧ t = finishInit (expandKey s.keyReg) s)) := by
  cases i with
  | init k =>
    by_cases h : k = .bytes32
    · exact ⟨_, by simp [exec, execInit, h], .inr (.inr (.inr ⟨by rw [h], rfl⟩))⟩
    · exact ⟨_, by simp [exec, execInit, h], .inl ⟨.invalidKeyLength, by decide, rfl⟩⟩
  | encrypt =>
    cases h : s.keyValid
    · exact ⟨_, by simp [exec, execEncrypt, h], .inl ⟨.notInitialized, by decide, rfl⟩⟩
    · exact ⟨_, by simp [exec, execEncrypt, h]; rfl, .inr (.inr (.inl ⟨_, rfl⟩))⟩
  | decrypt =>
    cases h : s.keyValid
    · exact ⟨_, by simp [exec, execDecrypt, h], .inl ⟨.notInitialized, by decide, rfl⟩⟩
    · exact ⟨_, by simp [exec, execDecrypt, h]; rfl, .inr (.inr (.inl ⟨_, rfl⟩))⟩
  | subBytes => exact ⟨_, rfl, .inr (.inr (.inl ⟨_, rfl⟩))⟩
  | invSubBytes => exact ⟨_, rfl, .inr (.inr (.inl ⟨_, rfl⟩))⟩
  | shiftRows => exact ⟨_, rfl, .inr (.inr (.inl ⟨_, rfl⟩))⟩
  | invShiftRows => exact ⟨_, rfl, .inr (.inr (.inl ⟨_, rfl⟩))⟩
  | mixColumns => exact ⟨_, rfl, .inr (.inr (.inl ⟨_, rfl⟩))⟩
  | invMixColumns => exact ⟨_, rfl, .inr (.inr (.inl ⟨_, rfl⟩))⟩
  | addRoundKey r =>
    by_cases hr : r ≤ 14
    · cases h : s.keyValid
      · exact ⟨_, by simp [exec, execAddRoundKey, h, hr], .inl ⟨.notInitialized, by decide, rfl⟩⟩
      · exact ⟨_, by simp [exec, execAddRoundKey, h, hr]; rfl, .inr (.inr (.inl ⟨_, rfl⟩))⟩
    · exact ⟨_, by simp [exec, execAddRoundKey, hr], .inl ⟨.badRoundIndex, by decide, rfl⟩⟩
  | gfAdd a b => exact ⟨_, rfl, .inr (.inl ⟨_, rfl⟩)⟩
  | gfMul a b => exact ⟨_, rfl, .inr (.inl ⟨_, rfl⟩)⟩
  | gfInv a => exact ⟨_, rfl, .inr (.inl ⟨_, rfl⟩)⟩
  | sboxFwd a => exact ⟨_, rfl, .inr (.inl ⟨_, rfl⟩)⟩
  | sboxInv a => exact ⟨_, rfl, .inr (.inl ⟨_, rfl⟩)⟩

/-- The completion of a pending word: a decoded command's meaning, or ILLEGAL_COMMAND (R233). -/
theorem execute_cases (s : State) :
    (∃ i, Sys2Proof.decode s.pend = .instr i ∧ execute s = exec i s) ∨
    (∃ why, Sys2Proof.decode s.pend = .illegal why ∧ execute s = .next (raiseCmdError .illegalCommand s)) := by
  unfold execute
  cases h : Sys2Proof.decode s.pend with
  | instr i => exact .inl ⟨i, rfl, rfl⟩
  | illegal why => exact .inr ⟨why, rfl, rfl⟩

end Sys2Proof.Machine
end

