-- ==== Sys2Proof/Laws/PerInstr.lean ====
section
/-! SUPPORT. A law stated for each instruction as syntax: its encoding lies in its own row of R83. -/

namespace Sys2Proof.Laws.EncodesItsRow

/-- The match value of an instruction's row (R83). -/
def rowValue : Instr → Word
  | .init _ => 0x00000001
  | .encrypt => 0x00000002
  | .decrypt => 0x00000003
  | .subBytes => 0x00000004
  | .invSubBytes => 0x00000005
  | .shiftRows => 0x00000006
  | .invShiftRows => 0x00000007
  | .mixColumns => 0x00000008
  | .invMixColumns => 0x00000009
  | .addRoundKey _ => 0x0000000A
  | .gfAdd _ _ => 0x00000010
  | .gfMul _ _ => 0x00000011
  | .gfInv _ => 0x00000012
  | .sboxFwd _ => 0x00000013
  | .sboxInv _ => 0x00000014

/-- The encoding has the row's OP in bits 4:0 and 0 in both reserved fields, bits 7:5 and 15:14 (R80, R82, R83). -/
def Statement (i : Instr) : Prop :=
  encode i &&& 0x0000C0FF = rowValue i

/-- A packed command, seen through the mask of OP and the two reserved fields, is its OP. -/
theorem pack_fixed (b a : Byte) (ksz : BitVec 2) (ridx : BitVec 4) (op : BitVec 5) :
    packCommand b a ksz ridx op &&& 0x0000C0FF = op.setWidth 32 := by
  apply BitVec.eq_of_getLsbD_eq
  intro i hi
  simp only [packCommand, BitVec.getLsbD_and, BitVec.getLsbD_append, BitVec.getLsbD_setWidth]
  interval_cases i <;> simp

theorem init (ksz : KeySel) : Statement (.init ksz) := pack_fixed _ _ _ _ _
theorem encrypt : Statement .encrypt := pack_fixed _ _ _ _ _
theorem decrypt : Statement .decrypt := pack_fixed _ _ _ _ _
theorem subBytes : Statement .subBytes := pack_fixed _ _ _ _ _
theorem invSubBytes : Statement .invSubBytes := pack_fixed _ _ _ _ _
theorem shiftRows : Statement .shiftRows := pack_fixed _ _ _ _ _
theorem invShiftRows : Statement .invShiftRows := pack_fixed _ _ _ _ _
theorem mixColumns : Statement .mixColumns := pack_fixed _ _ _ _ _
theorem invMixColumns : Statement .invMixColumns := pack_fixed _ _ _ _ _
theorem addRoundKey (ridx : Nat) : Statement (.addRoundKey ridx) := pack_fixed _ _ _ _ _
theorem gfAdd (a b : Byte) : Statement (.gfAdd a b) := pack_fixed _ _ _ _ _
theorem gfMul (a b : Byte) : Statement (.gfMul a b) := pack_fixed _ _ _ _ _
theorem gfInv (a : Byte) : Statement (.gfInv a) := pack_fixed _ _ _ _ _
theorem sboxFwd (a : Byte) : Statement (.sboxFwd a) := pack_fixed _ _ _ _ _
theorem sboxInv (a : Byte) : Statement (.sboxInv a) := pack_fixed _ _ _ _ _

end Sys2Proof.Laws.EncodesItsRow
end

