-- ==== Sys2Proof/Laws/Step.lean ====
section
/-! SUPPORT. What a step can be, said once: a completion, the reset input, a host operation, or a turn that passes (R276). -/

namespace Sys2Proof.Machine

/-- Whose step it is decides what the step is. -/
theorem step_cases (s : State) :
    (completesNow s = true ∧ s.busy = true ∧ hostOpNow s = none ∧ resetsNow s = false ∧
      step s = execute { s with turns := s.turns.tail }) ∨
    (completesNow s = false ∧ resetsNow s = true ∧ hostOpNow s = none ∧
      step s = .next (resetCore { s with turns := s.turns.tail })) ∨
    (completesNow s = false ∧ resetsNow s = false ∧ hostOpNow s = none ∧
      step s = .next { s with turns := s.turns.tail }) ∨
    (∃ op rest, completesNow s = false ∧ resetsNow s = false ∧ hostOpNow s = some op ∧ s.hostProgram = op :: rest ∧
      step s = .next (hostTurn { s with turns := s.turns.tail })) := by
  obtain ⟨busy, kv, ovr, err, res, st, key, rk, pend, prog, turns, log, fc⟩ := s
  cases turns with
  | nil =>
    cases busy with
    | true => exact .inl ⟨rfl, rfl, rfl, rfl, rfl⟩
    | false =>
      cases prog with
      | nil => exact .inr (.inr (.inl ⟨rfl, rfl, rfl, rfl⟩))
      | cons op rest => exact .inr (.inr (.inr ⟨op, rest, rfl, rfl, rfl, rfl, rfl⟩))
  | cons t ts =>
    cases t with
    | host =>
      cases prog with
      | nil => exact .inr (.inr (.inl ⟨rfl, rfl, rfl, rfl⟩))
      | cons op rest => exact .inr (.inr (.inr ⟨op, rest, rfl, rfl, rfl, rfl, rfl⟩))
    | core =>
      cases busy with
      | true => exact .inl ⟨rfl, rfl, rfl, rfl, rfl⟩
      | false => exact .inr (.inr (.inl ⟨rfl, rfl, rfl, rfl⟩))
    | reset => exact .inr (.inl ⟨rfl, rfl, rfl, rfl⟩)

/-- What a host operation does, and to the program it takes it from (R91, R92). -/
theorem hostTurn_write {s : State} {off : Offset} {v : Word} {rest : List HostOp}
    (h : s.hostProgram = .write off v :: rest) : hostTurn s = busWrite off v { s with hostProgram := rest } := by
  simp [hostTurn, h]

theorem hostTurn_read {s : State} {off : Offset} {rest : List HostOp}
    (h : s.hostProgram = .read off :: rest) : hostTurn s = hostRead off { s with hostProgram := rest } := by
  simp [hostTurn, h]

theorem hostTurn_waitIdle {s : State} {rest : List HostOp} (h : s.hostProgram = .waitIdle :: rest) :
    hostTurn s = hostRead 0x004 { s with hostProgram := if s.busy then .waitIdle :: rest else rest } := by
  obtain ⟨busy, kv, ovr, err, res, st, key, rk, pend, prog, turns, log, fc⟩ := s
  cases busy <;> simp_all [hostTurn, statusOffset]

/-- Everything a host read can change is on the host's side (R63). -/
theorem hostRead_cases (off : Offset) (s : State) :
    (∃ v, busRead off s = some v ∧ hostRead off s = logRead off v s) ∨
    (busRead off s = none ∧ hostRead off s = logFreeRead off s) := by
  cases h : busRead off s with
  | none => exact .inr ⟨rfl, hostRead_of_none h⟩
  | some v => exact .inl ⟨v, rfl, hostRead_of_some h⟩

/-- Everything a host write can do (R53). -/
theorem busWrite_cases (off : Offset) (v : Word) (s : State) :
    (busReg off = .cmd ∧ s.busy = false ∧ busWrite off v s = acceptCommand v s) ∨
    (s.busy = true ∧ droppedWhenBusy (busReg off) = true ∧ busWrite off v s = setOverrun s) ∨
    (busReg off = .status ∧ busWrite off v s = writeStatus v s) ∨
    (∃ j, busReg off = .state j ∧ s.busy = false ∧ busWrite off v s = writeStateWord j v s) ∨
    (∃ j, busReg off = .key j ∧ s.busy = false ∧ busWrite off v s = writeKeyWord j v s) ∨
    ((busReg off = .result ∨ (∃ i, busReg off = .rk i) ∨ busReg off = .reserved) ∧ busWrite off v s = s) := by
  unfold busWrite
  cases h : busReg off <;> cases hb : s.busy <;> simp [droppedWhenBusy, isCmd, isState, isKey]

end Sys2Proof.Machine
end

