-- ==== Sys2Proof/Laws/Units.lean ====
section
/-! SUPPORT. The units' functions: each definition unfolded once, and the derived tables of the spec checked against them. -/

namespace Sys2Proof.Machine

/-! ### Blocks as matrices (R24) -/

@[simp] theorem blockAt_blockOf (f : Fin 4 → Fin 4 → Byte) (r c : Fin 4) : blockAt (blockOf f) r c = f r c := by
  have hr : (4 * c.val + r.val) % 4 = r.val := by omega
  have hc : (4 * c.val + r.val) / 4 = c.val := by omega
  simp [blockAt, blockOf, hr, hc]

/-- Two blocks with the same matrix are the same. -/
theorem block_ext {s t : Block} (h : ∀ r c, blockAt s r c = blockAt t r c) : s = t := by
  apply Vector.ext
  intro i hi
  have := h ⟨i % 4, by omega⟩ ⟨i / 4, by omega⟩
  have e : 4 * (i / 4) + i % 4 = i := by omega
  simpa [blockAt, e] using this

/-! ### What each round function does to a byte (R180 to R187) -/

@[simp] theorem subBytes_getElem (s : Block) (k : Nat) (h : k < 16) : (subBytes s)[k] = sbox s[k] := by simp [subBytes]

@[simp] theorem invSubBytes_getElem (s : Block) (k : Nat) (h : k < 16) : (invSubBytes s)[k] = invSbox s[k] := by
  simp [invSubBytes]

@[simp] theorem addRoundKey_getElem (s : Block) (w : Schedule) (r : Fin 15) (j : Nat) (h : j < 16) :
    (addRoundKey s w r)[j] = s[j] ^^^ w[16 * r.val + j] := by simp [addRoundKey]

@[simp] theorem blockAt_subBytes (s : Block) (r c : Fin 4) : blockAt (subBytes s) r c = sbox (blockAt s r c) := by
  simp [blockAt]

@[simp] theorem blockAt_invSubBytes (s : Block) (r c : Fin 4) : blockAt (invSubBytes s) r c = invSbox (blockAt s r c) := by
  simp [blockAt]

@[simp] theorem blockAt_shiftRows (s : Block) (r c : Fin 4) : blockAt (shiftRows s) r c = blockAt s r (c + r) := by
  simp [shiftRows]

@[simp] theorem blockAt_invShiftRows (s : Block) (r c : Fin 4) : blockAt (invShiftRows s) r c = blockAt s r (c - r) := by
  simp [invShiftRows]

theorem blockAt_gfMatmul (M : Matrix4) (s : Block) (r c : Fin 4) :
    blockAt (gfMatmul M s) r c =
      gfMul (matrixEntry M r 0) (blockAt s 0 c) ^^^ gfMul (matrixEntry M r 1) (blockAt s 1 c) ^^^
        gfMul (matrixEntry M r 2) (blockAt s 2 c) ^^^ gfMul (matrixEntry M r 3) (blockAt s 3 c) := by
  simp [gfMatmul, gfAdd]

/-! ### The multiplier is linear in each iteration's bit (R104) -/

theorem gfMul_eq_terms (a b : Byte) :
    gfMul a b = gfMulLoop 8 0 a b := rfl

/-- The accumulator of R104's loop only adds to what the loop computes from zero. -/
theorem gfMulLoop_acc (n : Nat) (p a b : Byte) : gfMulLoop n p a b = p ^^^ gfMulLoop n 0 a b := by
  induction n generalizing p a b with
  | zero => simp [gfMulLoop]
  | succ n ih =>
    simp only [gfMulLoop]
    rw [ih, ih (if b.getLsbD 0 = true then 0 ^^^ a else 0)]
    split <;> simp [BitVec.xor_assoc]

/-! ### The inverse table satisfies R107's test -/

/-- Every nonzero byte times its table entry is 1 (R107). -/
theorem gfMul_gfInv_table : ∀ h : Fin 16, ∀ l : Fin 16,
    (h.val = 0 ∧ l.val = 0) ∨ gfMul (BitVec.ofNat 8 (16 * h.val + l.val)) (gfInv (BitVec.ofNat 8 (16 * h.val + l.val))) = 1 := by
  decide +kernel

/-! ### The S-box tables of 41_sbox.md, rows read left to right (R137, R138) -/

/-- The entries `_0` to `_f` of row `h` as one number, `_0` in the highest byte. -/
def tableRow (f : Byte → Byte) (h : Nat) : BitVec 128 :=
  (List.range 16).foldl (fun acc l => (acc <<< 8) ||| (f (BitVec.ofNat 8 (16 * h + l))).setWidth 128) 0

theorem sbox_table : (List.range 16).map (tableRow sbox) =
  [ 0x637c777bf26b6fc53001672bfed7ab76, 0xca82c97dfa5947f0add4a2af9ca472c0,
    0xb7fd9326363ff7cc34a5e5f171d83115, 0x04c723c31896059a071280e2eb27b275,
    0x09832c1a1b6e5aa0523bd6b329e32f84, 0x53d100ed20fcb15b6acbbe394a4c58cf,
    0xd0efaafb434d338545f9027f503c9fa8, 0x51a3408f929d38f5bcb6da2110fff3d2,
    0xcd0c13ec5f974417c4a77e3d645d1973, 0x60814fdc222a908846eeb814de5e0bdb,
    0xe0323a0a4906245cc2d3ac629195e479, 0xe7c8376d8dd54ea96c56f4ea657aae08,
    0xba78252e1ca6b4c6e8dd741f4bbd8b8a, 0x703eb5664803f60e613557b986c11d9e,
    0xe1f8981169d98e949b1e87e9ce5528df, 0x8ca1890dbfe6426841992d0fb054bb16 ] := by
  decide +kernel

theorem invSbox_table : (List.range 16).map (tableRow invSbox) =
  [ 0x52096ad53036a538bf40a39e81f3d7fb, 0x7ce339829b2fff87348e4344c4dee9cb,
    0x547b9432a6c2233dee4c950b42fac34e, 0x082ea16628d924b2765ba2496d8bd125,
    0x72f8f66486689816d4a45ccc5d65b692, 0x6c704850fdedb9da5e154657a78d9d84,
    0x90d8ab008cbcd30af7e45805b8b34506, 0xd02c1e8fca3f0f02c1afbd0301138a6b,
    0x3a9111414f67dcea97f2cfcef0b4e673, 0x96ac7422e7ad3585e2f937e81c75df6e,
    0x47f11a711d29c5896fb7620eaa18be1b, 0xfc563e4bc6d279209adbc0fe78cd5af4,
    0x1fdda8338807c731b11210592780ec5f, 0x60517fa919b54a0d2de57a9f93c99cef,
    0xa0e03b4dae2af5b0c8ebbb3c83539961, 0x172b047eba77d626e169146355210c7d ] := by
  decide +kernel

end Sys2Proof.Machine
end

