-- ==== Sys2Proof/Tests/Slice0.lean ====
section
/-! SUPPORT. Tests: the spec's own words and values, and for each statement with hypotheses a state and operands that meet them. -/

namespace Sys2Proof.Tests

open Sys2Proof Sys2Proof.Machine

/-! ## Helpers -/

/-- One thing about the next state, if there is one. -/
def after {α : Type} (r : Result) (f : State → α) : Option α :=
  match r with
  | .next s => some (f s)
  | .fault _ => none
  | .refused _ => none

/-- The reset state with a command word pending. -/
def pending (cw : Word) : State := { State.reset with pend := cw, busy := true }

/-- The reset state with a block in STATE. -/
def holding (b : Block) : State := { State.reset with stateReg := b }

/-- A KeyExpanded state: a schedule in RK and a block in STATE. -/
def keyed (w : Schedule) (b : Block) : State := { holding b with rk := w, keyValid := true }

/-- A schedule of zeros, for tests that do not look at the key. -/
def zeroRk : Schedule := Vector.replicate 240 0

/-- A state with the host's next operation and the turns to come. -/
def acting (op : HostOp) (turns : List Turn) (s : State) : State := { s with hostProgram := [op], turns := turns }

/-! ## Ill-formed instructions are refused by WellFormed -/

theorem test_illformed_round_index : (Instr.addRoundKey 16).wellFormed = false := by decide
theorem test_wellformed_round_index : (Instr.addRoundKey 15).wellFormed = true := by decide

/-! ## Decoding: every constructor, by a word written out from the bit patterns of R83 -/

theorem test_decode_init : decode 0b0000_0000_0000_0000_0010_0000_0000_0001 = .instr (.init .bytes32) := by decide
theorem test_decode_encrypt : decode 0b0000_0000_0000_0000_0000_0000_0000_0010 = .instr .encrypt := by decide
theorem test_decode_decrypt : decode 0b0000_0000_0000_0000_0000_0000_0000_0011 = .instr .decrypt := by decide
theorem test_decode_sub_bytes : decode 0b0000_0000_0000_0000_0000_0000_0000_0100 = .instr .subBytes := by decide
theorem test_decode_inv_sub_bytes : decode 0b0000_0000_0000_0000_0000_0000_0000_0101 = .instr .invSubBytes := by decide
theorem test_decode_shift_rows : decode 0b0000_0000_0000_0000_0000_0000_0000_0110 = .instr .shiftRows := by decide
theorem test_decode_inv_shift_rows : decode 0b0000_0000_0000_0000_0000_0000_0000_0111 = .instr .invShiftRows := by decide
theorem test_decode_mix_columns : decode 0b0000_0000_0000_0000_0000_0000_0000_1000 = .instr .mixColumns := by decide
theorem test_decode_inv_mix_columns : decode 0b0000_0000_0000_0000_0000_0000_0000_1001 = .instr .invMixColumns := by decide
theorem test_decode_add_round_key : decode 0b0000_0000_0000_0000_0000_1110_0000_1010 = .instr (.addRoundKey 14) := by decide
theorem test_decode_gf_add : decode 0b1000_0011_0101_0111_0000_0000_0001_0000 = .instr (.gfAdd 0x57 0x83) := by decide
theorem test_decode_gf_mul : decode 0b1000_0011_0101_0111_0000_0000_0001_0001 = .instr (.gfMul 0x57 0x83) := by decide
theorem test_decode_gf_inv : decode 0b0000_0000_0101_0011_0000_0000_0001_0010 = .instr (.gfInv 0x53) := by decide
theorem test_decode_sbox_fwd : decode 0b0000_0000_0101_0011_0000_0000_0001_0011 = .instr (.sboxFwd 0x53) := by decide
theorem test_decode_sbox_inv : decode 0b0000_0000_1110_1101_0000_0000_0001_0100 = .instr (.sboxInv 0xED) := by decide

/-- The rejected words of 95_test_vectors.md section 2.8. -/
theorem test_decode_rejects :
    [0x00000000, 0x0000000B, 0x0000000F, 0x00000015, 0x0000001F, 0x00000020].map decode =
      List.replicate 6 (.illegal .reservedOpcode) ∧
    [0x00000022, 0x00000102, 0x00004001, 0x00012001, 0x01000012, 0x00002011, 0x0001000A].map decode =
      List.replicate 7 (.illegal .fixedBitSet) := by decide

theorem test_decode_table_word : decodeTableWord 32 0x00530013 = some (.sboxFwd 0x53) := by decide
theorem test_no_two_rows_overlap :
    opcodeTable.Pairwise (fun r q => r.value &&& q.mask &&& r.mask ≠ q.value &&& r.mask &&& q.mask) := by decide

/-! ## One command each, at its completion (95_test_vectors.md sections 2.1 to 2.7) -/

theorem test_gf_add : after (step (State.reset.withFetchWord 32 0x83570010)) (·.result) = some 0xD4 := by decide
theorem test_gf_mul : after (step (State.reset.withFetchWord 32 0x83570011)) (·.result) = some 0xC1 := by decide
theorem test_gf_mul_largest : gfMul 0xFF 0xFF = 0x13 := by decide
theorem test_gf_inv : after (step (State.reset.withFetchWord 32 0x00530012)) (·.result) = some 0xCA := by decide
theorem test_gf_inv_zero : after (exec (.gfInv 0x00) { State.reset with result := 5 }) (·.result) = some 0x00 := by decide
theorem test_sbox_fwd : after (step (State.reset.withFetchWord 32 0x00530013)) (·.result) = some 0xED := by decide
theorem test_sbox_fwd_zero : sbox 0x00 = 0x63 := by decide
theorem test_sbox_inv : after (step (State.reset.withFetchWord 32 0x00ED0014)) (·.result) = some 0x53 := by decide

theorem test_sub_bytes :
    after (exec .subBytes (holding exampleBlock)) (·.stateReg) = some (hexBlock 0x638293c31bfc33f5c4eeacea4bc12816) := by decide +kernel
theorem test_inv_sub_bytes :
    after (exec .invSubBytes (holding exampleBlock)) (·.stateReg) = some (hexBlock 0x52e3946686edd30297f962fe27c9997d) := by decide +kernel
theorem test_shift_rows :
    after (exec .shiftRows (holding exampleBlock)) (·.stateReg) = some (hexBlock 0x0055aaff4499ee3388dd2277cc1166bb) := by decide +kernel
theorem test_inv_shift_rows :
    after (exec .invShiftRows (holding exampleBlock)) (·.stateReg) = some (hexBlock 0x00ddaa774411eebb885522ffcc996633) := by decide +kernel
theorem test_mix_columns :
    after (exec .mixColumns (holding exampleBlock)) (·.stateReg) = some (hexBlock 0x2277005566334411aaff88ddeebbcc99) := by decide +kernel
theorem test_mix_columns_fips :
    mixColumns (hexBlock 0xd4bf5d30e0b452aeb84111f11e2798e5) = hexBlock 0x046681e5e0cb199a48f8d37a2806264c := by decide +kernel
theorem test_inv_mix_columns :
    after (exec .invMixColumns (holding exampleBlock)) (·.stateReg) = some (hexBlock 0xaaff88ddeebbcc992277005566334411) := by decide +kernel

/-- The schedule of countingKey: words 8, 9, 12 and 59 (95_test_vectors.md section 1.1). -/
theorem test_init :
    after (exec (.init .bytes32) { State.reset with keyReg := countingKey })
      (fun t => [8, 9, 12, 59].map (fun i => scheduleWord t.rk i)) =
    some [⟨0xa5, 0x73, 0xc2, 0x9f⟩, ⟨0xa1, 0x76, 0xc4, 0x98⟩, ⟨0x16, 0x51, 0xa8, 0xcd⟩, ⟨0x6d, 0x68, 0xde, 0x36⟩] := by
  decide +kernel
theorem test_init_wrong_length :
    after (step (State.reset.withFetchWord 32 0x00001001)) statusWord = some 0x00000200 := by decide
theorem test_add_round_key :
    after (exec (.addRoundKey 14) (keyed (expandKey countingKey) exampleBlock)) (·.stateReg) =
      some (hexBlock 0x24ed5bfffb5c1f9ebf836887a1b530c9) := by decide +kernel
theorem test_add_round_key_check_order :
    after (step (State.reset.withFetchWord 32 0x00000F0A)) statusWord = some 0x00000400 := by decide

/-- The known-answer test of the source (95_test_vectors.md sections 1.2 and 2.7). -/
theorem test_encrypt_known_answer :
    after (exec .encrypt (keyed (expandKey countingKey) exampleBlock)) (·.stateReg) = some (hexBlock 0x8ea2b7ca516745bfeafc49904b496089) := by
  decide +kernel
theorem test_encrypt_without_context :
    after (step (State.reset.withFetchWord 32 0x00000002)) statusWord = some 0x00000300 := by decide
theorem test_decrypt_known_answer :
    after (exec .decrypt (keyed (expandKey countingKey) (hexBlock 0x8ea2b7ca516745bfeafc49904b496089))) (·.stateReg) = some exampleBlock := by
  decide +kernel
theorem test_decrypt_without_context :
    after (step (State.reset.withFetchWord 32 0x00000003)) statusWord = some 0x00000300 := by decide
theorem test_illegal_command :
    after (step (State.reset.withFetchWord 32 0x00000102)) statusWord = some 0x00000100 := by decide

/-! ## The bus (95_test_vectors.md section 2.9) -/

theorem test_read_state_lanes : busRead 0x010 (holding exampleBlock) = some 0x33221100 := by decide
theorem test_read_ignores_low_offset_bits : busRead 0x013 (holding exampleBlock) = some 0x33221100 := by decide
theorem test_write_state_lanes :
    (busWrite 0x011 0x12345678 State.reset).stateReg.toList.take 5 = [0x78, 0x56, 0x34, 0x12, 0x00] := by decide
theorem test_read_status :
    busRead 0x004 { State.reset with busy := true, keyValid := true, ovr := true, err := 3 } = some 0x0000030b := by decide
theorem test_clear_ovr : (busWrite 0x004 0x00000008 { State.reset with ovr := true }).ovr = false := by decide
theorem test_status_write_keeps_ovr : (busWrite 0x004 0xfffffff7 { State.reset with ovr := true }).ovr = true := by decide
theorem test_write_to_result_ignored : busWrite 0x008 0xffffffff (pending 0) = pending 0 := by decide +kernel
theorem test_busy_read_unspecified : busRead 0x008 (pending 0) = none := by decide
theorem test_dropped_write : (busWrite 0x010 0xdeadbeef (pending 0x83570011)).ovr = true := by decide
theorem test_masked_rk : busRead 0x120 State.reset = some 0 := by decide
theorem test_rcon_powers : rcon[1] = 0x01 ∧ (List.range 9).all (fun j => rcon.getD (j + 2) 0 == gfMul (rcon.getD (j + 1) 0) 0x02) = true ∧
    gfMul rcon[0] 0x02 = 0x01 := by decide
theorem test_read_schedule : busRead 0x120 (keyed (expandKey countingKey) exampleBlock) = some 0x9fc273a5 := by decide +kernel
theorem test_assemble : (AsmCommand.gfMul 0x57 0x83).assemble = 0x83570011 ∧ AsmCommand.init.assemble = 0x00002001 := by decide

/-- Reset during a command (program P6 of 95_test_vectors.md): STATUS reads 0 afterwards. -/
theorem test_reset_aborts : after (step { pending 0x00000003 with turns := [.reset] }) statusWord = some 0 := by decide

/-! ## Witnesses: every statement's hypotheses can be met -/

/-- For each row of R83: its value and mask, a word it selects with its operand bits set, and a word with the same OP that it does
not select. -/
def rowWitnesses : List (Word × Word × Word × Word) :=
  [ (0x01, 0xFFFFCFFF, 0x00003001, 0x00004001), (0x02, 0xFFFFFFFF, 0x00000002, 0x80000002),
    (0x03, 0xFFFFFFFF, 0x00000003, 0x00000023), (0x04, 0xFFFFFFFF, 0x00000004, 0x00000104),
    (0x05, 0xFFFFFFFF, 0x00000005, 0x00010005), (0x06, 0xFFFFFFFF, 0x00000006, 0x01000006),
    (0x07, 0xFFFFFFFF, 0x00000007, 0x00008007), (0x08, 0xFFFFFFFF, 0x00000008, 0x00002008) ] ++
  [ (0x09, 0xFFFFFFFF, 0x00000009, 0x00000029), (0x0A, 0xFFFFF0FF, 0x00000F0A, 0x0000100A),
    (0x10, 0x0000FFFF, 0xFFFF0010, 0x00000030), (0x11, 0x0000FFFF, 0xFFFF0011, 0x00008011),
    (0x12, 0xFF00FFFF, 0x00FF0012, 0x01000012), (0x13, 0xFF00FFFF, 0x00FF0013, 0x80000013),
    (0x14, 0xFF00FFFF, 0x00FF0014, 0x00000114) ]

theorem test_witness_row_statements : rowWitnesses.all (fun (v, m, yes, no) =>
    (pending yes).busy && (pending yes).pend &&& m == v && (pending no).pend &&& 0x1F == v &&& 0x1F &&
      (pending no).pend &&& m != v) = true := by decide

theorem test_witness_DecodeInvertsEncode : (Instr.addRoundKey 15).wellFormed = true ∧ (Instr.gfAdd 0xFF 0xFF).wellFormed = true := by
  decide
theorem test_witness_DecodedWordReencodes : decode 0x00000F0A = .instr (.addRoundKey 15) := by decide
theorem test_witness_TableRowsSelectWords : (pending 0x00000102).busy = true ∧
    ((pending 0x00000102).pend.extractLsb' 0 5).toNat = 0x02 ∧ ∀ i, decode (pending 0x00000102).pend ≠ .instr i := by
  refine ⟨by decide, by decide, fun i h => ?_⟩
  have hd : decode (pending 0x00000102).pend = .illegal .fixedBitSet := by decide
  rw [hd] at h
  cases h
theorem test_witness_ReservedOpcodesAreIllegal :
    ((pending 0xFFFFFFE0).pend.extractLsb' 0 5).toNat = 0x00 ∧ ((pending 0x0B).pend.extractLsb' 0 5).toNat = 0x0B ∧
    ((pending 0x0F).pend.extractLsb' 0 5).toNat = 0x0F ∧ ((pending 0x15).pend.extractLsb' 0 5).toNat = 0x15 ∧
    ((pending 0x1F).pend.extractLsb' 0 5).toNat = 0x1F ∧ (pending 0x1F).busy = true := by decide
theorem test_witness_InitCommand : KeySel.reservedSel ≠ .bytes32 ∧ (pending 0x00002001).pend &&& 0xFFFFCFFF = 0x00000001 ∧
    (pending 0x00002001).pend.extractLsb' 12 2 = 0b10 ∧ (pending 0x00003001).pend.extractLsb' 12 2 ≠ 0b10 ∧
    (pending 0x00003001).pend &&& 0xFFFFCFFF = 0x00000001 ∧
    (pending 0x00004001).pend &&& 0x1F = 0x01 ∧ (pending 0x00004001).pend &&& 0xFFFFCFFF ≠ 0x00000001 := by decide
theorem test_witness_ShiftRowsCommands : ∀ r c : Fin 4,
    blockAt (holding (Vector.replicate 16 0xab)).stateReg r c = blockAt (holding (Vector.replicate 16 0xab)).stateReg r 0 := by
  decide
theorem test_witness_MixColumnsCommands : ∀ r : Fin 4,
    blockAt (holding (Vector.replicate 16 0xc6)).stateReg r 3 = blockAt (holding (Vector.replicate 16 0xc6)).stateReg 0 3 := by
  decide
theorem test_witness_MixColumnsCommands_columns :
    (List.finRange 4).map (fun r => blockAt (holding (hexBlock 0xdb135345)).stateReg r 3) = [0xdb, 0x13, 0x53, 0x45] ∧
    (List.finRange 4).map (fun r => blockAt (holding (hexBlock 0x8e4da1bc)).stateReg r 3) = [0x8e, 0x4d, 0xa1, 0xbc] := by
  decide
theorem test_witness_AddRoundKeyCommand : 14 < 15 ∧ 15 < 16 ∧ 14 ≤ 14 ∧ (0 : Nat) ≤ 14 ∧ State.reset.keyValid = false ∧
    (keyed zeroRk exampleBlock).keyValid = true := by decide
theorem test_witness_CipherCommands : State.reset.keyValid = false ∧ (keyed zeroRk exampleBlock).keyValid = true := by decide
theorem test_witness_GfInvCommand : (0x00 : Byte) = 0x00 ∧ (0x01 : Byte) ≠ 0x00 ∧ (0xFF : Byte) ≠ 0x00 := by decide
theorem test_witness_GfMulFieldLaws : gfMul 0x00 0xFF = 0x00 ∧ gfMul 0xFF 0x00 = 0x00 := by decide
theorem test_witness_GfInvIsTheUniqueInverse : (0x02 : Byte) ≠ 0x00 ∧ gfMul 0x02 0x8D = 0x01 := by decide
theorem test_witness_SboxIsInverseThenAffine : (7 : Nat) < 8 ∧ (0x00 : Byte) = 0x00 ∧ (0x53 : Byte) ≠ 0x00 ∧
    rotl8 0x63 1 ^^^ rotl8 0x63 3 ^^^ rotl8 0x63 6 ^^^ 0x05 = 0x00 ∧
    rotl8 0xED 1 ^^^ rotl8 0xED 3 ^^^ rotl8 0xED 6 ^^^ 0x05 ≠ 0x00 := by decide
theorem test_witness_ScheduleRecurrence : [8, 9, 12, 59].all (fun i => 8 ≤ i && i < 60) = true := by decide
theorem test_witness_ShiftRowsRotatesRows : (3 : Nat) < 4 ∧ (0 : Nat) < 4 := by decide
theorem test_witness_RoundCommandsReproduceCipher : (keyed zeroRk exampleBlock).keyValid = true := by decide
theorem test_witness_FailedCommandChangesOnlyErr : ∃ t, (pending 0x0B).busy = true ∧ complete (pending 0x0B) = .next t ∧ t.err ≠ 0x0 :=
  ⟨_, rfl, rfl, by decide⟩
theorem test_witness_ChecksRunInOrder : decode (pending 0x0B).pend = .illegal .reservedOpcode ∧
    decode (pending 0xF0A).pend = .instr (.addRoundKey 15) ∧ decode (pending 0x2001).pend = .instr (.init .bytes32) ∧
    [0x0B, 0x1001, 0x2001, 0xF0A, 0xE0A, 0x02].all (fun w => (pending w).busy) = true := by decide
theorem test_witness_CommandsWriteOnlyTheirRegisters :
    (∃ t, exec (.gfAdd 1 2) State.reset = .next t) ∧ (∃ t, exec .shiftRows State.reset = .next t) ∧
    Instr.gfAdd 1 2 ≠ .init .bytes32 ∧ (∀ a b, Instr.shiftRows ≠ .gfAdd a b ∧ Instr.shiftRows ≠ .gfMul a b) ∧
    (∀ a, Instr.shiftRows ≠ .gfInv a ∧ Instr.shiftRows ≠ .sboxFwd a ∧ Instr.shiftRows ≠ .sboxInv a) ∧
    Instr.gfAdd 1 2 ∉ [.encrypt, .decrypt, .subBytes, .invSubBytes, .shiftRows, .invShiftRows, .mixColumns, .invMixColumns] ∧
    (∀ r, Instr.gfAdd 1 2 ≠ .addRoundKey r) :=
  ⟨⟨_, rfl⟩, ⟨_, rfl⟩, by simp, by simp, by simp, by simp, by simp⟩

/-- The first and last word index of every range of the register map, and the indexes between them. -/
theorem test_witness_bus_statements :
    ([0x000, 0x004, 0x008, 0x00C, 0x010, 0x01C, 0x020, 0x03C] : List Offset).map (fun o => (o.extractLsb' 2 7).toNat) =
      [0, 1, 2, 3, 4, 7, 8, 15] ∧
    ([0x040, 0x0FC, 0x100, 0x1EC, 0x1F0, 0x1FC] : List Offset).map (fun o => (o.extractLsb' 2 7).toNat) =
      [16, 63, 64, 123, 124, 127] ∧
    (pending 0).busy = true ∧ State.reset.busy = false ∧ State.reset.keyValid = false ∧ (keyed zeroRk exampleBlock).keyValid = true ∧
    (keyed zeroRk exampleBlock).busy = false ∧ ({ keyed zeroRk exampleBlock with busy := true } : State).busy = true := by decide
theorem test_witness_OffsetLowBitsIgnored : (0x013 : Offset).extractLsb' 2 7 = (0x010 : Offset).extractLsb' 2 7 := by decide
theorem test_witness_DroppedWriteSparesPending : (pending 0x83570011).busy = true ∧ busReg 0x000 = .cmd ∧
    busReg 0x01C = .state 3 ∧ busReg 0x03C = .key 7 ∧ busReg 0x004 = .status ∧ (0x00000008 : Word).getLsbD 3 = true := by decide
theorem test_witness_StateWriteReadsBack : State.reset.busy = false ∧ busReg 0x010 = .state 0 ∧ busReg 0x01C = .state 3 ∧
    (0 : Fin 4) ≠ 3 := by decide
theorem test_witness_HostReadsChangeNoRegister : busRead 0x01C (holding exampleBlock) = some 0xffeeddcc ∧
    busRead 0x1EC { keyed zeroRk exampleBlock with busy := true } = none ∧ busRead 0x1EC (pending 0) = some 0 := by decide
theorem test_witness_StepRunsThePendingCommand : (pending 0x00530013).busy = true ∧
    decode (pending 0x00530013).pend = .instr (.sboxFwd 0x53) ∧ (pending 0x00530013).turns = [] ∧
    ({ pending 0x00530013 with turns := [.core, .host] } : State).turns = .core :: [.host] := by decide
theorem test_witness_StepRelation :
    (acting (.write 0x010 1) [.reset] State.reset).turns = .reset :: [] ∧
    (acting (.write 0x010 1) [.core] (pending 2)).turns = .core :: [] ∧ (acting (.write 0x010 1) [.core] (pending 2)).busy = true ∧
    (acting (.write 0x010 1) [.core] State.reset).busy = false ∧
    (acting (.write 0x010 1) [.host] State.reset).hostProgram = .write 0x010 1 :: [] ∧
    (acting (.read 0x1FC) [.host] State.reset).hostProgram = .read 0x1FC :: [] ∧
    (acting .waitIdle [.host] (pending 2)).hostProgram = .waitIdle :: [] ∧
    (acting .waitIdle [.host] (pending 2)).turns = .host :: [] ∧
    ({ State.reset with turns := [.host] } : State).turns = .host :: [] ∧ State.reset.hostProgram = [] ∧ (pending 2).turns = [] ∧ State.reset.turns = [] := by decide
theorem test_witness_PendingCommandCompletesUndisturbed :
    (acting (.write 0x000 3) [.host, .core] (pending 2)).busy = true ∧ ({ pending 2 with turns := [.reset] } : State).busy = true := by
  decide
theorem test_witness_ResetFromAnyState : ({ pending 3 with turns := [.reset, .host] } : State).turns = .reset :: [.host] := by decide
theorem test_witness_StepKeepsInvariant : ∃ t, State.reset.Inv ∧ step State.reset = .next t :=
  ⟨_, ⟨rfl, fun h => by cases h⟩, rfl⟩

/-- One step for each clause of the statements about what changes a register. -/
theorem test_witness_StatusFieldsChangeOnlySo :
    after (step (acting (.write 0x000 2) [] State.reset)) (·.busy) = some true ∧
    after (step (pending 2)) (·.busy) = some false ∧ completesNow (pending 2) = true ∧
    after (step (pending 0x00002001)) (·.keyValid) = some true ∧
    after (step { keyed zeroRk exampleBlock with turns := [.reset] }) (·.keyValid) = some false ∧
    after (step (acting (.write 0x01C 2) [.host] (pending 2))) (·.ovr) = some true ∧
    writesNow droppedWhenBusy (acting (.write 0x01C 2) [.host] (pending 2)) = true ∧
    after (step (acting (.write 0x004 8) [] { State.reset with ovr := true })) (·.ovr) = some false ∧
    clearsOverrunNow (acting (.write 0x004 8) [] { State.reset with ovr := true }) = true ∧
    clearsOverrunNow (acting (.write 0x004 0xfffffff7) [] { State.reset with ovr := true }) = false ∧
    after (step (pending 2)) (·.err) = some 3 ∧ State.reset.err ≠ 3 := by decide
theorem test_witness_DataRegistersChangeOnlySo :
    after (step (acting (.write 0x03C 1) [] State.reset)) (fun t => t.keyReg[28]) = some 1 ∧ State.reset.keyReg[28] ≠ 1 ∧
    after (step (acting (.write 0x000 2) [] State.reset)) (·.pend) = some 2 ∧ State.reset.pend ≠ 2 ∧
    after (step (pending 0x00FF0012)) (·.result) = some 0x1C ∧ State.reset.result ≠ 0x1C ∧
    after (step (acting (.write 0x010 1) [] State.reset)) (fun t => t.stateReg[0]) = some 1 ∧ State.reset.stateReg[0] ≠ 1 := by
  decide
theorem test_witness_schedule_changes :
    after (step (pending 0x00002001)) (fun t => t.rk[32]) = some 0x62 ∧ State.reset.rk[32] ≠ 0x62 := by decide +kernel
theorem test_witness_SafeStepSeesNoHazard : ∃ t, SafeStep (acting (.read 0x004) [.host] (pending 2)) ∧
    step (acting (.read 0x004) [.host] (pending 2)) = .next t ∧ (acting (.read 0x004) [.host] (pending 2)).ovr = false := by
  refine ⟨_, ⟨⟨_, rfl⟩, fun op h => ?_⟩, rfl, rfl⟩
  have e : HostOp.read 0x004 = op := Option.some.inj h
  subst e
  decide
theorem test_witness_HazardFreeAccessCommutes : (acting (.write 0x004 8) [] (pending 2)).busy = true ∧
    (acting (.write 0x004 8) [] (pending 2)).hostProgram = .write 0x004 8 :: [] ∧ droppedWhenBusy (busReg 0x004) = false ∧
    droppedWhenBusy (busReg 0x1FC) = false ∧ (acting (.read 0x03C) [] (pending 2)).hostProgram = .read 0x03C :: [] ∧
    busReg 0x000 = .cmd ∧ busReg 0x0FC = .reserved ∧ busReg 0x03C = .key 7 := by decide
theorem test_witness_KeyShowsOnlyThroughInit :
    ¬ (completesNow (pending 0x00000001) = true ∧ decode (pending 0x00000001).pend = .instr (.init .bytes32)) := by decide
theorem test_witness_ResetGarbageIsUnobservable :
    Indistinguishable State.reset { State.reset with rk := Vector.replicate 240 0xFF, pend := 0xFFFFFFFF } :=
  ⟨rfl, fun h => absurd h (by decide), fun h => absurd h (by decide)⟩
theorem test_witness_PendingCommandIsKeptByEveryOtherStep : ∃ t, (acting (.write 0x01C 5) [.host] (pending 2)).busy = true ∧
    completesNow (acting (.write 0x01C 5) [.host] (pending 2)) = false ∧
    resetsNow (acting (.write 0x01C 5) [.host] (pending 2)) = false ∧
    step (acting (.write 0x01C 5) [.host] (pending 2)) = .next t := ⟨_, rfl, rfl, rfl, rfl⟩
theorem test_witness_host_sequences : State.reset.busy = false ∧ State.reset.turns = [] := by decide
theorem test_assembled_words_decode : decode (AsmCommand.init).assemble = .instr (.init .bytes32) ∧
    decode (AsmCommand.addRoundKey 15).assemble = .instr (.addRoundKey 15) := by decide

end Sys2Proof.Tests
end

section
/-! PROOFS. The host bus (20_memory.md): what a read answers, what a write does, and what a dropped write leaves to the
pending command. -/

namespace Sys2Proof.Machine

/-! ### The register map by word index (R51) -/

theorem busRegOfIndex_state {w : Nat} (h : 4 ≤ w ∧ w ≤ 7) : busRegOfIndex w = .state ⟨w - 4, by omega⟩ := by
  unfold busRegOfIndex
  rw [if_neg (by omega), if_neg (by omega), if_neg (by omega), dif_pos h]

theorem busRegOfIndex_key {w : Nat} (h : 8 ≤ w ∧ w ≤ 15) : busRegOfIndex w = .key ⟨w - 8, by omega⟩ := by
  unfold busRegOfIndex
  rw [if_neg (by omega), if_neg (by omega), if_neg (by omega), dif_neg (by omega), dif_pos h]

theorem busRegOfIndex_rk {w : Nat} (h : 64 ≤ w ∧ w ≤ 123) : busRegOfIndex w = .rk ⟨w - 64, by omega⟩ := by
  unfold busRegOfIndex
  rw [if_neg (by omega), if_neg (by omega), if_neg (by omega), dif_neg (by omega), dif_neg (by omega), dif_pos h]

theorem busRegOfIndex_reserved {w : Nat} (h : w = 3 ∨ (16 ≤ w ∧ w ≤ 63) ∨ 124 ≤ w) : busRegOfIndex w = .reserved := by
  unfold busRegOfIndex
  rw [if_neg (by omega), if_neg (by omega), if_neg (by omega), dif_neg (by omega), dif_neg (by omega), dif_neg (by omega)]

/-- The word indexes of the registers whose write is dropped while BUSY = 1 (R51, R57). -/
theorem droppedWhenBusy_busRegOfIndex {w : Nat} (h : w = 0 ∨ (4 ≤ w ∧ w ≤ 15)) :
    droppedWhenBusy (busRegOfIndex w) = true := by
  obtain rfl | ⟨h4, h15⟩ := h
  · rfl
  by_cases h7 : w ≤ 7
  · rw [busRegOfIndex_state ⟨h4, h7⟩]
    rfl
  · rw [busRegOfIndex_key ⟨by omega, h15⟩]
    rfl

/-- The word indexes no write to which has an effect (R51, R60). -/
theorem busRegOfIndex_readOnly {w : Nat} (h : w = 2 ∨ w = 3 ∨ 16 ≤ w) :
    busRegOfIndex w = .result ∨ (∃ i, busRegOfIndex w = .rk i) ∨ busRegOfIndex w = .reserved := by
  obtain rfl | h := h
  · exact .inl rfl
  by_cases hr : 64 ≤ w ∧ w ≤ 123
  · exact .inr (.inl ⟨_, busRegOfIndex_rk hr⟩)
  · exact .inr (.inr (busRegOfIndex_reserved (by omega)))

/-! ### `busRead`, one equation per register (R52) -/

section Read
variable {off : Offset} (s : State)

theorem busRead_cmd (h : busReg off = .cmd) : busRead off s = some 0 := by simp [busRead, h]

theorem busRead_status (h : busReg off = .status) : busRead off s = some (statusWord s) := by simp [busRead, h]

theorem busRead_result (h : busReg off = .result) :
    busRead off s = if s.busy then none else some (s.result.setWidth 32) := by
  simp only [busRead, h]

theorem busRead_state {j : Fin 4} (h : busReg off = .state j) :
    busRead off s = if s.busy then none else some (laneWord s.stateReg (4 * j.val) (by omega)) := by
  simp only [busRead, h]

theorem busRead_key {j : Fin 8} (h : busReg off = .key j) : busRead off s = some 0 := by simp [busRead, h]

theorem busRead_rk {i : Fin 60} (h : busReg off = .rk i) :
    busRead off s = if !s.keyValid then some 0 else if s.busy then none
      else some (laneWord s.rk (4 * i.val) (by omega)) := by
  simp only [busRead, h]

theorem busRead_reserved (h : busReg off = .reserved) : busRead off s = some 0 := by simp [busRead, h]

end Read

/-! ### `busWrite`, one equation per register (R53) -/

section Write
variable {off : Offset} (v : Word) (s : State)

theorem busWrite_cmd (h : busReg off = .cmd) (hb : s.busy = false) : busWrite off v s = acceptCommand v s := by
  simp [busWrite, h, hb]

theorem busWrite_status (h : busReg off = .status) : busWrite off v s = { s with ovr := s.ovr && !v.getLsbD 3 } := by
  simp only [busWrite, h, writeStatus_eq]

theorem busWrite_state {j : Fin 4} (h : busReg off = .state j) (hb : s.busy = false) :
    busWrite off v s = writeStateWord j v s := by
  simp [busWrite, h, hb]

theorem busWrite_key {j : Fin 8} (h : busReg off = .key j) (hb : s.busy = false) :
    busWrite off v s = writeKeyWord j v s := by
  simp [busWrite, h, hb]

/-- A write to CMD, STATE or KEY while BUSY = 1 is dropped and sets OVR (R57). -/
theorem busWrite_dropped (h : droppedWhenBusy (busReg off) = true) (hb : s.busy = true) :
    busWrite off v s = setOverrun s := by
  cases hr : busReg off with
  | cmd | state | key => simp [busWrite, hr, hb]
  | status | result | rk | reserved =>
    rw [hr] at h
    cases h

/-- RESULT, the RK window and the reserved offsets are not writable (R60). -/
theorem busWrite_readOnly (h : busReg off = .result ∨ (∃ i, busReg off = .rk i) ∨ busReg off = .reserved) :
    busWrite off v s = s := by
  obtain h | ⟨i, h⟩ | h := h <;> simp [busWrite, h]

end Write

/-! ### The words read and written -/

/-- STATUS bit by bit (R31); ERR has no bit above bit 11 of the word. -/
theorem getLsbD_statusWord (s : State) (i : Nat) :
    (statusWord s).getLsbD i =
      if i = 0 then s.busy else if i = 1 then s.keyValid else if i = 3 then s.ovr
      else if 8 ≤ i then s.err.getLsbD (i - 8) else false := by
  unfold statusWord
  simp only [BitVec.getLsbD_setWidth, BitVec.getLsbD_append]
  match i with
  | 0 | 1 | 2 | 3 | 4 | 5 | 6 | 7 => simp
  | n + 8 =>
    have herr : s.err.getLsbD n = true → n + 8 < 32 := fun h => by
      have := BitVec.lt_of_getLsbD h
      omega
    simpa using herr

/-- STATUS field by field, 0 in the reserved bits (R31). -/
theorem statusWord_fields (s : State) :
    (statusWord s).getLsbD 0 = s.busy ∧ (statusWord s).getLsbD 1 = s.keyValid ∧ (statusWord s).getLsbD 2 = false ∧
    (statusWord s).getLsbD 3 = s.ovr ∧ (statusWord s).extractLsb' 4 4 = 0 ∧ (statusWord s).extractLsb' 8 4 = s.err ∧
    (statusWord s).extractLsb' 12 20 = 0 := by
  refine ⟨getLsbD_statusWord s 0, getLsbD_statusWord s 1, getLsbD_statusWord s 2, getLsbD_statusWord s 3, ?_, ?_, ?_⟩
  all_goals
    ext i hi
    simp only [BitVec.getElem_extractLsb', getLsbD_statusWord]
    grind

/-- RESULT as read: the byte in lane 0, 0 above it (R52). -/
theorem byteWord_fields (r : Byte) : (r.setWidth 32).extractLsb' 0 8 = r ∧ (r.setWidth 32).extractLsb' 8 24 = 0 := by
  constructor
  · ext i hi
    simp only [BitVec.getElem_extractLsb', BitVec.getLsbD_setWidth]
    grind
  · ext i hi
    simp

/-- The bytes `LaneWord(A, base)` shows are those of `A` from `base` on, little-endian (R55). -/
theorem getElem?_laneWord {n : Nat} (A : Vector Byte n) (base : Nat) (h : base + 3 < n) :
    ∀ k < 4, A[base + k]? = some ((laneWord A base h).extractLsb' (8 * k) 8) := by
  intro k hk
  rw [Vector.getElem?_eq_getElem (by omega), ← lane_laneWord A base h k hk]
  rfl

/-- The bytes a word write puts into an array are its lanes, little-endian (R55). -/
theorem writeLanes_getElem?_inside {n : Nat} (A : Vector Byte n) (base : Nat) (v : Word) (h : base + 3 < n) :
    ∀ k < 4, (writeLanes A base v)[base + k]? = some (v.extractLsb' (8 * k) 8) := by
  intro k hk
  rw [Vector.getElem?_eq_getElem (by omega), writeLanes_inside A base v k hk]
  rfl

theorem writeLanes_getElem?_outside {n : Nat} (A : Vector Byte n) (base : Nat) (v : Word) (i : Nat)
    (ho : i < base ∨ base + 4 ≤ i) : (writeLanes A base v)[i]? = A[i]? := by
  by_cases hi : i < n
  · rw [Vector.getElem?_eq_getElem hi, Vector.getElem?_eq_getElem hi, writeLanes_outside A base v i hi ho]
  · rw [Vector.getElem?_eq_none (by omega), Vector.getElem?_eq_none (by omega)]

/-! ### A completion neither reads nor writes OVR -/

theorem exec_setOverrun (i : Instr) (s : State) :
    ∃ t, exec i s = .next t ∧ exec i (setOverrun s) = .next (setOverrun t) := by
  cases i with
  | init k =>
    by_cases h : k = .bytes32
    · exact ⟨_, if_pos h, if_pos h⟩
    · exact ⟨_, if_neg h, if_neg h⟩
  | encrypt =>
    by_cases h : s.keyValid = true
    · exact ⟨_, if_pos h, if_pos h⟩
    · exact ⟨_, if_neg h, if_neg h⟩
  | decrypt =>
    by_cases h : s.keyValid = true
    · exact ⟨_, if_pos h, if_pos h⟩
    · exact ⟨_, if_neg h, if_neg h⟩
  | addRoundKey r =>
    by_cases hr : r ≤ 14
    · by_cases h : s.keyValid = true
      · exact ⟨_, (dif_pos hr).trans (if_pos h), (dif_pos hr).trans (if_pos h)⟩
      · exact ⟨_, (dif_pos hr).trans (if_neg h), (dif_pos hr).trans (if_neg h)⟩
    · exact ⟨_, dif_neg hr, dif_neg hr⟩
  | subBytes | invSubBytes | shiftRows | invShiftRows | mixColumns | invMixColumns => exact ⟨_, rfl, rfl⟩
  | gfAdd | gfMul | gfInv | sboxFwd | sboxInv => exact ⟨_, rfl, rfl⟩

/-- A pending command completes as it would have, with OVR set (R57, R235). -/
theorem complete_setOverrun {s : State} (hb : s.busy = true) :
    ∃ t, complete s = .next t ∧ complete (setOverrun s) = .next (setOverrun t) := by
  simp only [complete, setOverrun_busy, hb, if_true, execute, setOverrun_pend]
  cases Sys2Proof.decode s.pend with
  | instr i => exact exec_setOverrun i s
  | illegal why => exact ⟨_, rfl, rfl⟩

/-! ### The obligations -/

/-- Settles O29, one register at a time: the word index decides the register, and the register's equation its answer. -/
theorem busReadAnswers : Obligations.BusReadAnswers := by
  intro off s w
  refine ⟨fun h => ?_, fun h => ?_, fun h => ?_, fun h => ?_, fun h => ?_, fun h => ?_, fun h => ?_⟩
  · exact busRead_cmd s (congrArg busRegOfIndex h)
  · exact ⟨_, busRead_status s (congrArg busRegOfIndex h), statusWord_fields s⟩
  · rw [busRead_result s (congrArg busRegOfIndex h)]
    exact ⟨fun hb => if_pos hb, fun hb => ⟨_, if_neg (by simp [hb]), byteWord_fields s.result⟩⟩
  · rw [busRead_state s (busRegOfIndex_state h)]
    exact ⟨fun hb => if_pos hb, fun hb => ⟨_, if_neg (by simp [hb]), getElem?_laneWord _ _ _⟩⟩
  · exact busRead_key s (busRegOfIndex_key h)
  · rw [busRead_rk s (busRegOfIndex_rk h)]
    exact ⟨fun hk => by simp [hk], fun hk hb => by simp [hk, hb],
      fun hk hb => ⟨_, by simp only [hk, hb]; rfl, getElem?_laneWord _ _ _⟩⟩
  · exact busRead_reserved s (busRegOfIndex_reserved h)

/-- Settles O30, one kind of write at a time. -/
theorem busWriteEffects : Obligations.BusWriteEffects := by
  intro off v s w
  refine ⟨fun h hb => ?_, fun h => ?_, fun h hb => ?_, fun h hb => ?_, fun h hb => ?_, fun h => ?_⟩
  · exact busWrite_cmd v s (congrArg busRegOfIndex h) hb
  · exact busWrite_status v s (congrArg busRegOfIndex h)
  · exact ⟨_, busWrite_state v s (busRegOfIndex_state h) hb, writeLanes_getElem?_inside _ _ v (by dsimp only; omega),
      writeLanes_getElem?_outside _ _ v⟩
  · exact ⟨_, busWrite_key v s (busRegOfIndex_key h) hb, writeLanes_getElem?_inside _ _ v (by dsimp only; omega),
      writeLanes_getElem?_outside _ _ v⟩
  · exact busWrite_dropped v s (droppedWhenBusy_busRegOfIndex h) hb
  · exact busWrite_readOnly v s (busRegOfIndex_readOnly h)

/-- Settles O32: a dropped write is `setOverrun`, which commutes with the completion; a STATUS write has its own equation. -/
theorem droppedWriteSparesPending : Obligations.DroppedWriteSparesPending := by
  intro off v s hb
  refine ⟨fun h => ?_, busWrite_status v s⟩
  have hd : droppedWhenBusy (busReg off) = true := by
    obtain h | ⟨j, h⟩ | ⟨j, h⟩ := h <;> rw [h] <;> rfl
  rw [busWrite_dropped v s hd hb]
  exact ⟨rfl, complete_setOverrun hb⟩

/-- Settles O31: an access depends on its offset only through the register it names. -/
theorem offsetLowBitsIgnored : Obligations.OffsetLowBitsIgnored := by
  intro off off' v s h
  simp only [busRead, busWrite, busReg_congr h, and_self]

end Sys2Proof.Machine
end

section
/-! PROOFS. Encoding (30_encoding.md): which words select which row of R83, and what a word that selects none does. -/

namespace Sys2Proof

/-! ### A word selects at most one row (R82) -/

/-- Every mask of R83 covers OP. -/
theorem fieldOp_mask : ∀ r ∈ opcodeTable, fieldOp r.mask = BitVec.allOnes 5 := by decide

/-- No two rows of R83 have the same OP. -/
theorem nodup_opcodes : (opcodeTable.map fun r => fieldOp r.value).Nodup := by decide

theorem fieldOp_and (v w : Word) : fieldOp (v &&& w) = fieldOp v &&& fieldOp w := BitVec.extractLsb'_and

/-- A selected row has the word's OP. -/
theorem fieldOp_eq_of_and_mask {r : Row} {cw : Word} (hr : r ∈ opcodeTable) (h : cw &&& r.mask = r.value) :
    fieldOp r.value = fieldOp cw := by
  rw [← h, fieldOp_and, fieldOp_mask r hr, BitVec.and_allOnes]

theorem row_eq_of_and_mask {r r' : Row} {cw : Word} (hr : r ∈ opcodeTable) (hr' : r' ∈ opcodeTable)
    (h : cw &&& r.mask = r.value) (h' : cw &&& r'.mask = r'.value) : r = r' :=
  List.inj_on_of_nodup_map nodup_opcodes hr hr'
    ((fieldOp_eq_of_and_mask hr h).trans (fieldOp_eq_of_and_mask hr' h').symm)

/-- R82 and R85 as one equivalence: a word decodes to a command exactly when some row selects it and reads that command from it. -/
theorem decode_eq_instr_iff {cw : Word} {i : Instr} :
    decode cw = .instr i ↔ ∃ r ∈ opcodeTable, cw &&& r.mask = r.value ∧ r.build cw = i := by
  unfold decode
  cases hf : opcodeTable.find? (fun r => r.selects cw) with
  | some r =>
    have hr : r ∈ opcodeTable := List.mem_of_find?_eq_some hf
    have hsel : cw &&& r.mask = r.value := by simpa [Row.selects] using List.find?_some hf
    constructor
    · intro h
      exact ⟨r, hr, hsel, Decoded.instr.inj h⟩
    · rintro ⟨r', hr', hsel', rfl⟩
      rw [row_eq_of_and_mask hr hr' hsel hsel']
  | none =>
    have hnone : ∀ r ∈ opcodeTable, cw &&& r.mask ≠ r.value := by simpa [Row.selects] using hf
    constructor
    · intro h
      cases h
    · rintro ⟨r, hr, hsel, -⟩
      exact absurd hsel (hnone r hr)

/-- Every OP of R83 is in one of the two ranges that R84 leaves. -/
theorem opcode_ranges : ∀ r ∈ opcodeTable,
    (0x01 ≤ (fieldOp r.value).toNat ∧ (fieldOp r.value).toNat ≤ 0x0A) ∨
    (0x10 ≤ (fieldOp r.value).toNat ∧ (fieldOp r.value).toNat ≤ 0x14) := by decide

/-- A word that decodes has a defined OP (R84). -/
theorem fieldOp_of_decode_eq_instr {cw : Word} {i : Instr} (h : decode cw = .instr i) :
    (0x01 ≤ (fieldOp cw).toNat ∧ (fieldOp cw).toNat ≤ 0x0A) ∨
    (0x10 ≤ (fieldOp cw).toNat ∧ (fieldOp cw).toNat ≤ 0x14) := by
  obtain ⟨r, hr, hsel, -⟩ := decode_eq_instr_iff.mp h
  rw [← fieldOp_eq_of_and_mask hr hsel]
  exact opcode_ranges r hr

/-- KSZ and its name determine each other (R81). -/
theorem keySelOfBits_eq_iff (x : BitVec 2) (k : KeySel) : keySelOfBits x = k ↔
    (k = .bytes16 ∧ x = 0b00) ∨ (k = .bytes24 ∧ x = 0b01) ∨ (k = .bytes32 ∧ x = 0b10) ∨
      (k = .reservedSel ∧ x = 0b11) := by
  revert x
  cases k <;> decide

end Sys2Proof

namespace Sys2Proof.Machine

/-- A pending word that is no command raises ILLEGAL_COMMAND (R82, R84, R233). -/
theorem complete_of_not_instr {s : State} (hb : s.busy = true) (h : ∀ i, Sys2Proof.decode s.pend ≠ .instr i) :
    complete s = .next (raiseCmdError .illegalCommand s) := by
  rw [complete, if_pos hb]
  obtain ⟨i, hd, -⟩ | ⟨_, -, he⟩ := execute_cases s
  · exact absurd hd (h i)
  · exact he

/-! ### The obligations -/

/-- Settles O3: of the rows that could select the word, only one builds the command in question, and a word that selects none
raises ILLEGAL_COMMAND. -/
theorem tableRowsSelectWords : Obligations.TableRowsSelectWords := by
  refine ⟨fun cw => ⟨fun k => ?init, ?_, ?_, ?_, ?_, ?_, ?_, ?_, ?_, fun r => ?addRoundKey, fun a b => ?gfAdd,
    fun a b => ?gfMul, fun a => ?gfInv, fun a => ?sboxFwd, fun a => ?sboxInv⟩, fun s hb _ h => complete_of_not_instr hb h⟩
  case init => simp [decode_eq_instr_iff, opcodeTable, keySelOfBits_eq_iff, fieldKsz]
  case addRoundKey => simp [decode_eq_instr_iff, opcodeTable, fieldRidx, eq_comm]
  case gfAdd | gfMul => simp [decode_eq_instr_iff, opcodeTable, fieldA, fieldB, eq_comm]
  case gfInv | sboxFwd | sboxInv => simp [decode_eq_instr_iff, opcodeTable, fieldA, eq_comm]
  -- the eight rows without operands
  all_goals simp [decode_eq_instr_iff, opcodeTable]

/-- Settles O4: a word that decodes has a defined OP, so a word with a reserved one is no command. -/
theorem reservedOpcodesAreIllegal : Obligations.ReservedOpcodesAreIllegal := by
  intro s hb hop
  refine complete_of_not_instr hb fun i hd => ?_
  have hdef := fieldOp_of_decode_eq_instr hd
  unfold fieldOp at hdef
  omega

end Sys2Proof.Machine
end

section
/-! PROOFS. The GF(2^8) arithmetic unit (40_gf_arithmetic.md): gf_mul is the product of polynomials modulo m(x), so the bytes obey
the laws of a quotient ring of polynomials; with the table of inverses they are a field. Then the three byte commands. -/

namespace Sys2Proof.Machine

open Polynomial

/-! ### A byte as a polynomial, taken at a point of a ring of characteristic 2 (R100) -/

section Value
variable {R : Type*} [CommRing R]

/-- The value at `x` of the polynomial whose coefficients are the `n` low bits of `a`, bit `i` that of `x^i` (R100). -/
def bitsAt (x : R) (n : Nat) (a : Byte) : R := ∑ i ∈ Finset.range n, if a.getLsbD i then x ^ i else 0

/-- A byte is its bit 0 and `x` times its other bits. -/
theorem bitsAt_succ (x : R) (n : Nat) (a : Byte) :
    bitsAt x (n + 1) a = x * bitsAt x n (a >>> 1) + if a.getLsbD 0 then 1 else 0 := by
  simp [bitsAt, Finset.sum_range_succ', Finset.mul_sum, pow_succ', Nat.add_comm 1]

theorem bitsAt_zero (x : R) (a : Byte) : bitsAt x 0 a = 0 := Finset.sum_range_zero _

theorem bitsAt_one (x : R) : bitsAt x 8 0x01 = 1 := by
  simp [bitsAt]

/-- A left shift multiplies by `x` and loses the term of `x^8`. -/
theorem bitsAt_shiftLeft_one (x : R) (a : Byte) :
    bitsAt x 8 (a <<< 1) + (if a.getLsbD 7 then x ^ 8 else 0) = x * bitsAt x 8 a := by
  simp [bitsAt, Finset.sum_range_succ, mul_add, ← pow_succ', ← pow_two]

theorem map_bitsAt {S : Type*} [CommRing S] (f : R →+* S) (x : R) (n : Nat) (a : Byte) :
    f (bitsAt x n a) = bitsAt (f x) n a := by
  simp only [bitsAt, map_sum, apply_ite f, map_pow, map_zero]

variable [CharP R 2]

/-- Field addition is addition of polynomials over GF(2) (R102). -/
theorem bitsAt_xor (x : R) (n : Nat) (a b : Byte) : bitsAt x n (a ^^^ b) = bitsAt x n a + bitsAt x n b := by
  unfold bitsAt
  rw [← Finset.sum_add_distrib]
  refine Finset.sum_congr rfl fun i _ => ?_
  cases ha : a.getLsbD i <;> cases hb : b.getLsbD i <;> simp [ha, hb, CharTwo.add_self_eq_zero]

variable {x : R} (hx : x ^ 8 = x ^ 4 + x ^ 3 + x + 1)
include hx

/-- `xtime` is multiplication by `x`, where m(x) is 0 (R105). -/
theorem bitsAt_xtime (a : Byte) : bitsAt x 8 (xtime a) = x * bitsAt x 8 a := by
  have hred : bitsAt x 8 (if a.getLsbD 7 then 0x1B else 0x00) = if a.getLsbD 7 then x ^ 8 else 0 := by
    rw [hx]
    split
    · simp [bitsAt, Finset.sum_range_succ]
      ring
    · simp [bitsAt]
  rw [xtime, bitsAt_xor, hred, bitsAt_shiftLeft_one]

/-- The loop invariant of R104: what is left to add is `a` times the bits of `b` still to come. -/
theorem bitsAt_gfMulLoop (n : Nat) (p a b : Byte) :
    bitsAt x 8 (gfMulLoop n p a b) = bitsAt x 8 p + bitsAt x 8 a * bitsAt x n b := by
  induction n generalizing p a b with
  | zero => rw [gfMulLoop, bitsAt_zero, mul_zero, add_zero]
  | succ n ih =>
    rw [gfMulLoop, ih, bitsAt_xtime hx, bitsAt_succ x n b]
    split
    · rw [bitsAt_xor]
      ring
    · ring

theorem bitsAt_gfMul (a b : Byte) : bitsAt x 8 (gfMul a b) = bitsAt x 8 a * bitsAt x 8 b := by
  rw [gfMul, bitsAt_gfMulLoop hx]
  simp [bitsAt]

end Value

/-! ### The ring of polynomials over GF(2) modulo m(x) (R101, R103) -/

/-- `m(x) = x^8 + x^4 + x^3 + x + 1` (R101). -/
noncomputable def modulus : (ZMod 2)[X] := X ^ 8 + X ^ 4 + X ^ 3 + X + 1

theorem modulus_degree : modulus.degree = 8 := by
  unfold modulus
  compute_degree!

theorem modulus_monic : modulus.Monic := by
  unfold modulus
  monicity!

theorem charP_adjoinRoot_modulus : CharP (AdjoinRoot modulus) 2 := by
  have : Nontrivial (AdjoinRoot modulus) := AdjoinRoot.nontrivial _ (by simp [modulus_degree])
  exact charP_of_injective_algebraMap (algebraMap (ZMod 2) (AdjoinRoot modulus)).injective 2

/-- The residue of x has the power that R104's reduction by 0x1B uses. -/
theorem root_modulus_pow_eight :
    AdjoinRoot.root modulus ^ 8 =
      AdjoinRoot.root modulus ^ 4 + AdjoinRoot.root modulus ^ 3 + AdjoinRoot.root modulus + 1 := by
  have := charP_adjoinRoot_modulus
  have hzero : AdjoinRoot.mk modulus (X ^ 8 + (X ^ 4 + X ^ 3 + X + 1)) = 0 :=
    AdjoinRoot.mk_eq_zero.2 (dvd_of_eq (by rw [modulus]; ring))
  rw [map_add] at hzero
  simpa using CharTwo.add_eq_zero.1 hzero

/-- A byte as an element of GF(2^8): the residue of its polynomial (R100, R101). -/
noncomputable def residue (a : Byte) : AdjoinRoot modulus := bitsAt (AdjoinRoot.root modulus) 8 a

theorem mk_bitsAt_X (a : Byte) : AdjoinRoot.mk modulus (bitsAt X 8 a) = residue a := by
  rw [map_bitsAt, AdjoinRoot.mk_X, residue]

theorem residue_gfMul (a b : Byte) : residue (gfMul a b) = residue a * residue b :=
  have := charP_adjoinRoot_modulus
  bitsAt_gfMul root_modulus_pow_eight a b

theorem residue_xor (a b : Byte) : residue (a ^^^ b) = residue a + residue b :=
  have := charP_adjoinRoot_modulus
  bitsAt_xor _ 8 a b

theorem residue_one : residue 0x01 = 1 := bitsAt_one _

theorem residue_zero : residue 0x00 = 0 := by simp [residue, bitsAt]

/-- Polynomials with the same residue have the same remainder. -/
theorem modByMonic_modulus_congr {p q : (ZMod 2)[X]} (h : AdjoinRoot.mk modulus p = AdjoinRoot.mk modulus q) :
    p %ₘ modulus = q %ₘ modulus :=
  modByMonic_eq_of_dvd_sub modulus_monic (AdjoinRoot.mk_eq_mk.1 h)

/-- A byte is its own remainder: its polynomial has degree below 8. -/
theorem bitsAt_X_modByMonic (a : Byte) : bitsAt X 8 a %ₘ modulus = bitsAt X 8 a := by
  rw [modByMonic_eq_self_iff modulus_monic, modulus_degree, bitsAt]
  refine (degree_sum_le _ _).trans_lt ((Finset.sup_lt_iff (by decide)).2 fun i hi => ?_)
  split
  · rw [degree_X_pow]
    exact_mod_cast Finset.mem_range.1 hi
  · rw [degree_zero]
    decide

/-- Bit `i` of a byte is the coefficient of `x^i` (R100). -/
theorem coeff_bitsAt_X (a : Byte) {i : Nat} (hi : i < 8) :
    (bitsAt (X : (ZMod 2)[X]) 8 a).coeff i = if a.getLsbD i then 1 else 0 := by
  simp only [bitsAt, finsetSum_coeff, apply_ite (coeff · i), coeff_X_pow, coeff_zero]
  rw [Finset.sum_eq_single i]
  · simp
  · intro j _ hj; simp [hj.symm]
  · simp [hi]

/-- Bytes are the same when their residues are: an equation of bytes may be proved in the quotient ring. -/
theorem residue_injective : Function.Injective residue := by
  intro a b h
  have hpoly : bitsAt (X : (ZMod 2)[X]) 8 a = bitsAt X 8 b := by
    rw [← bitsAt_X_modByMonic a, ← bitsAt_X_modByMonic b]
    exact modByMonic_modulus_congr (by rw [mk_bitsAt_X, mk_bitsAt_X, h])
  refine BitVec.eq_of_getLsbD_eq fun i hi => ?_
  have hcoeff := congrArg (coeff · i) hpoly
  simp only [coeff_bitsAt_X _ hi] at hcoeff
  cases ha : a.getLsbD i <;> cases hb : b.getLsbD i <;> simp_all

/-- R103: the two polynomials have the same residue, and the byte's is its own remainder. -/
theorem bitsAt_X_gfMul (a b : Byte) :
    bitsAt (X : (ZMod 2)[X]) 8 (gfMul a b) = (bitsAt X 8 a * bitsAt X 8 b) %ₘ modulus := by
  have hres : AdjoinRoot.mk modulus (bitsAt X 8 (gfMul a b)) = AdjoinRoot.mk modulus (bitsAt X 8 a * bitsAt X 8 b) := by
    rw [map_mul, mk_bitsAt_X, mk_bitsAt_X, mk_bitsAt_X, residue_gfMul]
  rw [← modByMonic_modulus_congr hres, bitsAt_X_modByMonic]

/-! ### The laws of gf_mul (R105, R106) -/

theorem gfMul_comm (a b : Byte) : gfMul a b = gfMul b a :=
  residue_injective (by rw [residue_gfMul, residue_gfMul, mul_comm])

theorem gfMul_assoc (a b c : Byte) : gfMul (gfMul a b) c = gfMul a (gfMul b c) :=
  residue_injective (by simp only [residue_gfMul, mul_assoc])

theorem gfMul_xor (a b c : Byte) : gfMul a (b ^^^ c) = gfMul a b ^^^ gfMul a c :=
  residue_injective (by simp only [residue_gfMul, residue_xor, mul_add])

theorem gfMul_one (a : Byte) : gfMul a 0x01 = a :=
  residue_injective (by rw [residue_gfMul, residue_one, mul_one])

theorem gfMul_zero (a : Byte) : gfMul a 0x00 = 0x00 :=
  residue_injective (by rw [residue_gfMul, residue_zero, mul_zero])

theorem one_gfMul (a : Byte) : gfMul 0x01 a = a := by rw [gfMul_comm, gfMul_one]

theorem zero_gfMul (a : Byte) : gfMul 0x00 a = 0x00 := by rw [gfMul_comm, gfMul_zero]

/-- The loop meets the one bit of 0x02 in its second iteration, with `a` doubled once. -/
theorem gfMul_two (a : Byte) : gfMul a 0x02 = xtime a := by simp [gfMul, gfMulLoop]

/-! ### The inverse (R107, R108) -/

theorem gfMul_gfInv {a : Byte} (ha : a ≠ 0x00) : gfMul a (gfInv a) = 0x01 := by
  have hsplit : BitVec.ofNat 8 (16 * (a.toNat / 16) + a.toNat % 16) = a := by
    rw [Nat.div_add_mod, BitVec.ofNat_toNat, BitVec.setWidth_eq]
  obtain ⟨hh, hl⟩ | h := gfMul_gfInv_table ⟨a.toNat / 16, by omega⟩ ⟨a.toNat % 16, by omega⟩
  · have hzero : a.toNat = 0 := by
      dsimp only at hh hl
      omega
    exact absurd (BitVec.eq_of_toNat_eq hzero) ha
  · simpa only [hsplit] using h

/-- A nonzero factor cancels: multiply by its inverse. -/
theorem gfMul_left_cancel {a b c : Byte} (ha : a ≠ 0x00) (h : gfMul a b = gfMul a c) : b = c := by
  have hcancel (d : Byte) : gfMul (gfInv a) (gfMul a d) = d := by
    rw [← gfMul_assoc, gfMul_comm (gfInv a), gfMul_gfInv ha, one_gfMul]
  rw [← hcancel b, h, hcancel]

theorem eq_zero_or_eq_zero_of_gfMul_eq_zero {a b : Byte} (h : gfMul a b = 0x00) : a = 0x00 ∨ b = 0x00 :=
  or_iff_not_imp_left.2 fun ha => gfMul_left_cancel ha (by rw [h, gfMul_zero])

theorem gfMul_eq_one_iff {a x : Byte} (ha : a ≠ 0x00) : gfMul a x = 0x01 ↔ x = gfInv a :=
  ⟨fun h => gfMul_left_cancel ha (by rw [h, gfMul_gfInv ha]), fun h => by rw [h, gfMul_gfInv ha]⟩

theorem gfInv_zero : gfInv 0x00 = 0x00 := by decide

theorem gfInv_ne_zero {a : Byte} (ha : a ≠ 0x00) : gfInv a ≠ 0x00 := fun h => by
  have := gfMul_gfInv ha
  rw [h, gfMul_zero] at this
  exact absurd this (by decide)

theorem gfInv_involutive : Function.Involutive gfInv := by
  intro a
  by_cases ha : a = 0x00
  · rw [ha, gfInv_zero, gfInv_zero]
  · exact ((gfMul_eq_one_iff (gfInv_ne_zero ha)).1 (by rw [gfMul_comm, gfMul_gfInv ha])).symm

/-- In characteristic 2, `a * a = 1` says that the square of `a + 1` is 0. -/
theorem gfMul_self_eq_one_iff {a : Byte} : gfMul a a = 0x01 ↔ a = 0x01 := by
  refine ⟨fun h => ?_, fun h => by rw [h, gfMul_one]⟩
  have hsq : gfMul (a ^^^ 0x01) (a ^^^ 0x01) = 0x00 := by
    rw [gfMul_xor, gfMul_one, gfMul_comm, gfMul_xor, h, gfMul_one, BitVec.xor_comm 0x01, BitVec.xor_self]
    rfl
  exact BitVec.xor_eq_zero_iff.1 ((eq_zero_or_eq_zero_of_gfMul_eq_zero hsq).elim id id)

theorem gfInv_eq_self_iff (a : Byte) : gfInv a = a ↔ a = 0x00 ∨ a = 0x01 := by
  by_cases ha : a = 0x00
  · rw [ha, gfInv_zero]
    simp
  · rw [eq_comm, ← gfMul_eq_one_iff ha, gfMul_self_eq_one_iff]
    exact (or_iff_right ha).symm

/-- The search tries every nonzero byte, so it finds the inverse, and nothing but the inverse passes its test (R107). -/
theorem gfInvSearch_eq_gfInv (a : Byte) : gfInvSearch a = gfInv a := by
  by_cases ha : a = 0x00
  · rw [ha, gfInv_zero, gfInvSearch, if_pos rfl]
  rw [gfInvSearch, if_neg ha]
  cases hf : ((List.range' 1 255).map (BitVec.ofNat 8)).find? (fun x => gfMul a x == 0x01) with
  | some x =>
    have htest := List.find?_some hf
    exact (gfMul_eq_one_iff ha).1 (beq_iff_eq.1 htest)
  | none =>
    have hmem : gfInv a ∈ (List.range' 1 255).map (BitVec.ofNat 8) := by
      have hpos : (gfInv a).toNat ≠ 0 := fun h => gfInv_ne_zero ha (BitVec.eq_of_toNat_eq h)
      exact List.mem_map.2 ⟨(gfInv a).toNat, List.mem_range'_1.2 (by omega), by simp⟩
    exact absurd (beq_iff_eq.2 (gfMul_gfInv ha)) (List.find?_eq_none.1 hf _ hmem)

/-! ### A pending word runs the row of R83 that selects it -/

theorem rowRuns_of_mem {r : Row} (hr : r ∈ opcodeTable) : RowRuns r.value r.mask r.build := by
  intro s hb
  constructor
  · intro hsel
    rw [complete, if_pos hb, execute, decode_eq_instr_iff.2 ⟨r, hr, hsel, rfl⟩]
  · intro hop hsel
    refine complete_of_not_instr hb fun i hd => ?_
    obtain ⟨r', hr', hsel', -⟩ := decode_eq_instr_iff.1 hd
    have hopcode : fieldOp s.pend = fieldOp r.value := by
      have := congrArg fieldOp hop
      rwa [fieldOp_and, fieldOp_and, show fieldOp 0x1F = BitVec.allOnes 5 by decide, BitVec.and_allOnes,
        BitVec.and_allOnes] at this
    have hrow : r' = r := List.inj_on_of_nodup_map nodup_opcodes hr' hr
      ((fieldOp_eq_of_and_mask hr' hsel').trans hopcode)
    exact hsel (hrow ▸ hsel')

theorem gfAdd_rowRuns : RowRuns 0x00000010 0x0000FFFF (fun cw => .gfAdd (fieldA cw) (fieldB cw)) :=
  rowRuns_of_mem (r := ⟨_, _, _⟩) (by simp [opcodeTable])

theorem gfMul_rowRuns : RowRuns 0x00000011 0x0000FFFF (fun cw => .gfMul (fieldA cw) (fieldB cw)) :=
  rowRuns_of_mem (r := ⟨_, _, _⟩) (by simp [opcodeTable])

theorem gfInv_rowRuns : RowRuns 0x00000012 0xFF00FFFF (fun cw => .gfInv (fieldA cw)) :=
  rowRuns_of_mem (r := ⟨_, _, _⟩) (by simp [opcodeTable])

/-! ### The commands at completion (R110 to R112) -/

theorem exec_gfAdd (a b : Byte) (s : State) : exec (.gfAdd a b) s = .next (finishByte (a ^^^ b) s) := rfl

theorem exec_gfMul (a b : Byte) (s : State) : exec (.gfMul a b) s = .next (finishByte (gfMul a b) s) := rfl

theorem exec_gfInv (a : Byte) (s : State) : exec (.gfInv a) s = .next (finishByte (gfInv a) s) := rfl

/-! ### The obligations -/

/-- Settles O6: the two completions write one byte, their rows run them, and the values are laws or runs of the multiplier. -/
theorem gfAddAndGfMulCommands : Obligations.GfAddAndGfMulCommands :=
  ⟨fun a b s => ⟨exec_gfAdd a b s, exec_gfMul a b s⟩, gfAdd_rowRuns, gfMul_rowRuns,
    fun a b => ⟨gfMul_comm a b, gfMul_zero a, zero_gfMul b, gfMul_one a⟩, by decide, by decide, by decide⟩

/-- Settles O7: the completion writes the inverse, which the table's test characterises. -/
theorem gfInvCommand : Obligations.GfInvCommand :=
  ⟨fun a s => ⟨gfInv a, exec_gfInv a s, rfl, fun ha => ha ▸ gfInv_zero, gfMul_gfInv⟩, gfInv_rowRuns,
    by decide, by decide, by decide, by decide⟩

/-- Settles O15: the statement's polynomial of a byte is `bitsAt X 8`, and its m(x) is `modulus`. -/
theorem gfMulIsPolynomialProduct : Obligations.GfMulIsPolynomialProduct := bitsAt_X_gfMul

/-- Settles O16: each law is that of the quotient ring; that there are no zero divisors needs the inverse. -/
theorem gfMulFieldLaws : Obligations.GfMulFieldLaws :=
  ⟨fun a => ⟨(gfMul_two a).symm, gfMul_two a⟩, by decide, by decide, fun a => ⟨gfMul_one a, gfMul_zero a⟩, gfMul_comm,
    fun a b c => (gfMul_assoc a b c).symm, gfMul_xor, fun _ _ => eq_zero_or_eq_zero_of_gfMul_eq_zero⟩

/-- Settles O17: cancellation makes the inverse unique, and the rest follows from that. -/
theorem gfInvIsTheUniqueInverse : Obligations.GfInvIsTheUniqueInverse :=
  ⟨gfInv_zero, fun _ _ => gfMul_eq_one_iff, fun a => (gfInvSearch_eq_gfInv a).symm, gfInv_involutive,
    gfInv_involutive.bijective, gfInv_eq_self_iff⟩

end Sys2Proof.Machine
end

section
/-! PROOFS. The S-box unit (41_sbox.md): rotations add up modulo 8, so the two affine maps undo each other; the S-boxes are made
of them and the inverse. Then the two S-box commands. -/

namespace Sys2Proof.Machine

/-! ### The rotation (R130) -/

theorem rotl8_eq_rotateLeft (v : Byte) {n : Nat} (hn : n < 8) : rotl8 v n = v.rotateLeft n := by
  rw [rotl8, BitVec.rotateLeft_def, Nat.mod_eq_of_lt hn]

/-- R130: bit `i` of the rotation is bit `i - n` modulo 8; the low `n` bits are those that wrapped around. -/
theorem getLsbD_rotl8 (v : Byte) {n i : Nat} (hn : n < 8) (hi : i < 8) :
    (rotl8 v n).getLsbD i = v.getLsbD ((i + 8 - n) % 8) := by
  rw [rotl8_eq_rotateLeft v hn, BitVec.getLsbD_rotateLeft, Nat.mod_eq_of_lt hn]
  by_cases hwrap : i < n
  · rw [show (i + 8 - n) % 8 = 8 - n + i by omega]
    simp [hwrap]
  · rw [show (i + 8 - n) % 8 = i - n by omega]
    simp [hwrap, hi]

theorem rotl8_zero (v : Byte) : rotl8 v 0 = v := by
  refine BitVec.eq_of_getLsbD_eq fun i hi => ?_
  rw [getLsbD_rotl8 v (by decide) hi, Nat.sub_zero, Nat.add_mod_right, Nat.mod_eq_of_lt hi]

theorem rotl8_xor (v w : Byte) {n : Nat} (hn : n < 8) : rotl8 (v ^^^ w) n = rotl8 v n ^^^ rotl8 w n := by
  refine BitVec.eq_of_getLsbD_eq fun i hi => ?_
  simp only [BitVec.getLsbD_xor, getLsbD_rotl8 _ hn hi]

theorem rotl8_rotl8 (v : Byte) {m n : Nat} (hm : m < 8) (hn : n < 8) :
    rotl8 (rotl8 v m) n = rotl8 v ((m + n) % 8) := by
  have hmn : (m + n) % 8 < 8 := Nat.mod_lt _ (by decide)
  refine BitVec.eq_of_getLsbD_eq fun i hi => ?_
  rw [getLsbD_rotl8 _ hn hi, getLsbD_rotl8 _ hm (Nat.mod_lt _ (by decide)), getLsbD_rotl8 _ hmn hi]
  congr 1
  omega

/-! ### The affine maps (R131, R133) -/

theorem xor_xor_cancel_left (a b : Byte) : a ^^^ (a ^^^ b) = b := by
  rw [← BitVec.xor_assoc, BitVec.xor_self, BitVec.zero_xor]

/-- Of the fifteen rotations of `v` that the composition adds, all but `v` itself occur in pairs; the constants add to 0. -/
theorem invAffine_leftInverse : Function.LeftInverse invAffine affine := by
  intro v
  have hconst : rotl8 0x63 1 ^^^ rotl8 0x63 3 ^^^ rotl8 0x63 6 ^^^ 0x05 = 0#8 := by decide
  have hrot : invAffine (affine v) = v ^^^ (rotl8 0x63 1 ^^^ rotl8 0x63 3 ^^^ rotl8 0x63 6 ^^^ 0x05) := by
    simp only [affine, invAffine, rotl8_xor, rotl8_rotl8, rotl8_zero, Nat.reduceAdd, Nat.reduceMod, Nat.reduceLT]
    ac_nf
    simp only [xor_xor_cancel_left]
  rw [hrot, hconst, BitVec.xor_zero]

/-- `affine` is injective, so on the finitely many bytes its left inverse is its right inverse too. -/
theorem affine_leftInverse : Function.LeftInverse affine invAffine :=
  invAffine_leftInverse.rightInverse_of_surjective (Finite.surjective_of_injective invAffine_leftInverse.injective)

/-! ### The S-boxes (R132, R134, R135) -/

theorem invSbox_leftInverse : Function.LeftInverse invSbox sbox :=
  invAffine_leftInverse.comp gfInv_involutive

theorem sbox_leftInverse : Function.LeftInverse sbox invSbox :=
  Function.LeftInverse.comp gfInv_involutive affine_leftInverse

theorem sbox_bijective : Function.Bijective sbox :=
  ⟨invSbox_leftInverse.injective, sbox_leftInverse.surjective⟩

/-- No byte maps to itself or to its complement: a fact of the 256 values, which R135 too takes from checking all inputs. -/
theorem sbox_ne_self_and_ne_complement : ∀ x : Byte, sbox x ≠ x ∧ sbox x ≠ x ^^^ 0xFF := by decide +kernel

/-! ### The commands (R140, R141) -/

theorem sboxFwd_rowRuns : RowRuns 0x00000013 0xFF00FFFF (fun cw => .sboxFwd (fieldA cw)) :=
  rowRuns_of_mem (r := ⟨_, _, _⟩) (by simp [opcodeTable])

theorem sboxInv_rowRuns : RowRuns 0x00000014 0xFF00FFFF (fun cw => .sboxInv (fieldA cw)) :=
  rowRuns_of_mem (r := ⟨_, _, _⟩) (by simp [opcodeTable])

theorem exec_sboxFwd (a : Byte) (s : State) : exec (.sboxFwd a) s = .next (finishByte (sbox a) s) := rfl

theorem exec_sboxInv (a : Byte) (s : State) : exec (.sboxInv a) s = .next (finishByte (invSbox a) s) := rfl

/-! ### The obligations -/

/-- Settles O18: the affine maps undo each other because rotations add up, the inverse undoes itself, and the S-boxes are
compositions of the two; that no byte maps to itself or to its complement is checked byte by byte. -/
theorem sboxIsInverseThenAffine : Obligations.SboxIsInverseThenAffine :=
  ⟨fun v _ _ => getLsbD_rotl8 v,
    fun x => ⟨gfInv x, fun hx => hx ▸ gfInv_zero, gfMul_gfInv, rfl⟩,
    fun _ => ⟨fun hv => (congrArg gfInv hv).trans gfInv_zero, gfMul_gfInv⟩,
    fun _ => ⟨rfl, rfl⟩,
    fun v => ⟨invAffine_leftInverse v, affine_leftInverse v⟩,
    by decide, by decide, by decide, by decide, by decide,
    fun _ => ⟨rfl, rfl⟩,
    sbox_bijective,
    fun x => ⟨invSbox_leftInverse x, sbox_leftInverse x⟩,
    sbox_ne_self_and_ne_complement⟩

/-- Settles O8: the two completions write one byte, their rows run them, and SBOX_INV undoes SBOX_FWD since `invSbox` undoes
`sbox`. -/
theorem sboxCommands : Obligations.SboxCommands :=
  ⟨fun a s => ⟨exec_sboxFwd a s, exec_sboxInv a s, by rw [exec_sboxInv, invSbox_leftInverse a]; rfl⟩,
    sboxFwd_rowRuns, sboxInv_rowRuns, by decide⟩

end Sys2Proof.Machine
end

section
/-! PROOFS. The key schedule (42_key_schedule.md): the expansion loop only appends, so each word keeps the value it was given from
the words before it, and these are still there in the finished schedule. Then the INIT command. -/

namespace Sys2Proof.Machine

/-! ### One word of the recurrence (R152, R154) -/

/-- A round constant read as from a list, as the statements write the constants (R152). -/
theorem rcon_getD (j : Nat) (d : Byte) : rcon.getD j d = rcon.toList.getD j d := by
  simp [Vector.getD, Array.getD_eq_getD_getElem?]

/-- R154's `temp` with the rotation, the substitution and the round constant written out byte by byte. -/
theorem scheduleTemp_eq (i : Nat) (prev : KeyWord) : scheduleTemp i prev =
    if i % 8 = 0 then ⟨sbox prev.w1 ^^^ rcon.toList.getD (i / 8) 0, sbox prev.w2, sbox prev.w3, sbox prev.w0⟩
    else if i % 8 = 4 then ⟨sbox prev.w0, sbox prev.w1, sbox prev.w2, sbox prev.w3⟩
    else prev := by
  rw [← rcon_getD]
  rfl

/-! ### The expansion loop (R154) -/

theorem prefix_expandLoop (n i : Nat) (W : List KeyWord) : W <+: expandLoop n i W := by
  induction n generalizing i W with
  | zero => exact List.prefix_rfl
  | succ n ih => exact (List.prefix_append W _).trans (ih _ _)

/-- A word that is already there stays as it is. -/
theorem getD_expandLoop_of_lt (n i : Nat) {W : List KeyWord} {j : Nat} (hj : j < W.length) (d : KeyWord) :
    (expandLoop n i W).getD j d = W.getD j d := by
  obtain ⟨later, hlater⟩ := prefix_expandLoop n i W
  rw [← hlater, List.getD_append _ _ _ _ hj]

/-- R154's step in terms of the finished list: the loop makes word `j` from words `j - 8` and `j - 1`. -/
theorem getD_expandLoop {n i : Nat} {W : List KeyWord} (hW : W.length = i) (h8 : 8 ≤ i) {j : Nat} (hj : i ≤ j ∧ j < i + n) :
    (expandLoop n i W).getD j ⟨0, 0, 0, 0⟩ =
      xorWord ((expandLoop n i W).getD (j - 8) ⟨0, 0, 0, 0⟩)
        (scheduleTemp j ((expandLoop n i W).getD (j - 1) ⟨0, 0, 0, 0⟩)) := by
  induction n generalizing i W with
  | zero => omega
  | succ n ih =>
    obtain rfl | hlt := hj.1.eq_or_lt
    · -- `j` is the word this turn appends
      rw [getD_expandLoop_of_lt (n + 1) i (j := i - 8) (by omega), getD_expandLoop_of_lt (n + 1) i (j := i - 1) (by omega),
        expandLoop, getD_expandLoop_of_lt n (i + 1) (by simp [hW]), List.getD_append_right _ _ _ _ hW.le, hW, Nat.sub_self]
      rfl
    · exact ih (by simp [hW]) (by omega) (by omega)

/-! ### The words of a key's schedule (R150, R154) -/

theorem length_rawKeyWords (K : KeyBytes) : (rawKeyWords K).length = 8 := rfl

theorem getD_expandWords_of_lt (K : KeyBytes) {j : Nat} (hj : j < 8) (d : KeyWord) :
    (expandWords K).getD j d = rawKeyWord K ⟨j, hj⟩ := by
  rw [expandWords, getD_expandLoop_of_lt 52 8 hj]
  simp [rawKeyWords, hj]

theorem getD_expandWords (K : KeyBytes) {j : Nat} (hj : 8 ≤ j ∧ j < 60) :
    (expandWords K).getD j ⟨0, 0, 0, 0⟩ = xorWord ((expandWords K).getD (j - 8) ⟨0, 0, 0, 0⟩)
      (scheduleTemp j ((expandWords K).getD (j - 1) ⟨0, 0, 0, 0⟩)) :=
  getD_expandLoop (length_rawKeyWords K) le_rfl hj

/-- Byte `k` of the schedule is byte `k mod 4` of word `k div 4`. -/
theorem getElem_expandKey (K : KeyBytes) {k : Nat} (hk : k < 240) :
    (expandKey K)[k] = keyWordByte ((expandWords K).getD (k / 4) ⟨0, 0, 0, 0⟩) (k % 4) := by
  simp [expandKey]

theorem keyWordByte_rawKeyWord (K : KeyBytes) (j : Fin 8) {k : Nat} (hk : k < 4) :
    keyWordByte (rawKeyWord K j) k = K[4 * j.val + k] := by
  match k, hk with
  | 0, _ | 1, _ | 2, _ | 3, _ => rfl

/-- Step 1 of R154 on the bytes: the raw key is the first 32 bytes of its schedule. -/
theorem getElem_expandKey_of_lt (K : KeyBytes) {k : Nat} (hk : k < 32) : (expandKey K)[k] = K[k] := by
  rw [getElem_expandKey, getD_expandWords_of_lt K (by omega), keyWordByte_rawKeyWord K _ (Nat.mod_lt k (by decide))]
  simp only [Nat.div_add_mod]

/-- The schedule words as they stand in RK are the words of the expansion (R150). -/
theorem scheduleWord_expandKey (K : KeyBytes) (i : Fin 60) :
    scheduleWord (expandKey K) i = (expandWords K).getD i.val ⟨0, 0, 0, 0⟩ := by
  have hdiv (k : Nat) (hk : k < 4) : (4 * i.val + k) / 4 = i.val := by omega
  have hmod (k : Nat) (hk : k < 4) : (4 * i.val + k) % 4 = k := by omega
  simp [scheduleWord, getElem_expandKey, hdiv, hmod, keyWordByte]

/-! ### The INIT command (R165) -/

theorem exec_init_bytes32 (s : State) : exec (.init .bytes32) s = .next (finishInit (expandKey s.keyReg) s) := rfl

theorem exec_init_of_ne {k : KeySel} (hk : k ≠ .bytes32) (s : State) :
    exec (.init k) s = .next (raiseCmdError .invalidKeyLength s) := if_neg hk

theorem init_rowRuns : RowRuns 0x00000001 0xFFFFCFFF (fun cw => .init (keySelOfBits (fieldKsz cw))) :=
  rowRuns_of_mem (r := ⟨_, _, _⟩) (by simp [opcodeTable])

theorem keySelOfBits_eq_bytes32_iff (x : BitVec 2) : keySelOfBits x = .bytes32 ↔ x = 0b10 := by
  simp [keySelOfBits_eq_iff]

/-! ### The obligations -/

/-- Settles O19: the first 32 bytes are the raw key, and a schedule word is a word of the expansion loop, whose step is R154's
recurrence. -/
theorem scheduleRecurrence : Obligations.ScheduleRecurrence := by
  intro K
  constructor
  · intro i
    rw [Vector.getElem?_eq_getElem (by omega), getElem_expandKey_of_lt K i.isLt]
    rfl
  · intro i hi
    simp only [scheduleWord_expandKey]
    rw [getD_expandWords K hi, scheduleTemp_eq]
    generalize (expandWords K).getD (i - 1) _ = prev, (expandWords K).getD (i - 8) _ = w
    rfl

/-- Settles O9: INIT either expands KEY or raises INVALID_KEY_LENGTH, its row runs it with KSZ of the pending word, and R165's
corner and example words are runs of the expansion. -/
theorem initCommand : Obligations.InitCommand := by
  refine ⟨exec_init_bytes32, fun k s hk => exec_init_of_ne hk s, fun s hb hsel => ?_, fun s hb => (init_rowRuns s hb).2,
    by decide +kernel, by decide +kernel, by decide +kernel, by decide +kernel⟩
  have hksz : keySelOfBits (fieldKsz s.pend) = .bytes32 ↔ s.pend.extractLsb' 12 2 = 0b10 := keySelOfBits_eq_bytes32_iff _
  have hrun : complete s = exec (.init (keySelOfBits (fieldKsz s.pend))) s := (init_rowRuns s hb).1 hsel
  rw [hrun]
  exact ⟨fun h => by rw [hksz.2 h], fun h => exec_init_of_ne (mt hksz.1 h) s⟩

end Sys2Proof.Machine
end

section
/-! PROOFS. The round transformations (43_round_transforms.md): byte substitution and round-key addition act byte by byte, row
shifting moves bytes, and column mixing is a product of matrices over GF(2^8). Then the seven round commands. -/

namespace Sys2Proof.Machine

/-! ### Byte substitution and round-key addition (R180, R187) -/

theorem invSubBytes_leftInverse : Function.LeftInverse invSubBytes subBytes := fun s =>
  Vector.ext fun k hk => by rw [invSubBytes_getElem, subBytes_getElem, invSbox_leftInverse]

theorem addRoundKey_involutive (w : Schedule) (r : Fin 15) : Function.Involutive (addRoundKey · w r) := fun s =>
  Vector.ext fun j hj => by
    rw [addRoundKey_getElem, addRoundKey_getElem, BitVec.xor_assoc, BitVec.xor_self, BitVec.xor_zero]

/-- Byte `j` of the round key is the difference between the two sides of the addition. -/
theorem getElem?_schedule_eq_xor (s : Block) (w : Schedule) (r : Fin 15) (j : Fin 16) :
    w[16 * r.val + j.val]? = some (s[j] ^^^ (addRoundKey s w r)[j]) := by
  rw [Vector.getElem?_eq_getElem (by omega), Fin.getElem_fin, Fin.getElem_fin, addRoundKey_getElem, xor_xor_cancel_left]

/-- The first two round keys of a key's schedule are its own bytes (R154). -/
theorem getElem_addRoundKey_expandKey (s : Block) (K : KeyBytes) {r : Fin 15} (hr : r.val < 2) (j : Fin 16) :
    (addRoundKey s (expandKey K) r)[j] = s[j] ^^^ K[16 * r.val + j.val] := by
  rw [Fin.getElem_fin, addRoundKey_getElem, getElem_expandKey_of_lt K (by omega), Fin.getElem_fin]

/-! ### Row shifting (R182, R183) -/

/-- A block's byte `4c + r` is its matrix entry in row `r` and column `c` (R24). -/
theorem getElem?_eq_some_blockAt (s : Block) (r c : Fin 4) : s[4 * c.val + r.val]? = some (blockAt s r c) :=
  Vector.getElem?_eq_getElem _

theorem getElem?_shiftRows (s : Block) (r c : Fin 4) :
    (shiftRows s)[4 * c.val + r.val]? = s[4 * ((c.val + r.val) % 4) + r.val]? := by
  rw [getElem?_eq_some_blockAt, blockAt_shiftRows, ← getElem?_eq_some_blockAt, Fin.val_add]

theorem getElem?_invShiftRows (s : Block) (r c : Fin 4) :
    (invShiftRows s)[4 * c.val + r.val]? = s[4 * ((c.val + 4 - r.val) % 4) + r.val]? := by
  have hcol : (c - r).val = (c.val + 4 - r.val) % 4 := by
    rw [Fin.val_sub]
    congr 1
    omega
  rw [getElem?_eq_some_blockAt, blockAt_invShiftRows, ← getElem?_eq_some_blockAt, hcol]

theorem invShiftRows_leftInverse : Function.LeftInverse invShiftRows shiftRows := fun s =>
  block_ext fun r c => by rw [blockAt_invShiftRows, blockAt_shiftRows, sub_add_cancel]

theorem shiftRows_leftInverse : Function.LeftInverse shiftRows invShiftRows := fun s =>
  block_ext fun r c => by rw [blockAt_shiftRows, blockAt_invShiftRows, add_sub_cancel_right]

/-- Each row is four bytes long, so four rotations by the same number go all the way round. -/
theorem four_rotations : ∀ r c : Fin 4, c + r + r + r + r = c ∧ c - r - r - r - r = c := by decide

theorem shiftRows_four (s : Block) : shiftRows (shiftRows (shiftRows (shiftRows s))) = s :=
  block_ext fun r c => by simp only [blockAt_shiftRows, (four_rotations r c).1]

theorem invShiftRows_four (s : Block) : invShiftRows (invShiftRows (invShiftRows (invShiftRows s))) = s :=
  block_ext fun r c => by simp only [blockAt_invShiftRows, (four_rotations r c).2]

theorem shiftRows_of_constant_rows {s : Block} (h : ∀ r c, blockAt s r c = blockAt s r 0) : shiftRows s = s :=
  block_ext fun r c => by rw [blockAt_shiftRows, h r (c + r), h r c]

/-! ### Substitution commutes with row shifting (R188) -/

theorem shiftRows_subBytes (s : Block) : shiftRows (subBytes s) = subBytes (shiftRows s) :=
  block_ext fun r c => by simp only [blockAt_shiftRows, blockAt_subBytes]

theorem invShiftRows_invSubBytes (s : Block) : invShiftRows (invSubBytes s) = invSubBytes (invShiftRows s) :=
  block_ext fun r c => by simp only [blockAt_invShiftRows, blockAt_invSubBytes]

/-! ### Column mixing as a product of matrices over GF(2^8) (R109, R186) -/

theorem xor_gfMul (a b c : Byte) : gfMul (a ^^^ b) c = gfMul a c ^^^ gfMul b c := by
  rw [gfMul_comm, gfMul_xor, gfMul_comm c, gfMul_comm c]

/-- A block as a matrix over the quotient ring, entry by entry (R24, R100). -/
noncomputable def residueMatrix (s : Block) : Matrix (Fin 4) (Fin 4) (AdjoinRoot modulus) :=
  Matrix.of fun r c => residue (blockAt s r c)

theorem residueMatrix_injective : Function.Injective residueMatrix := fun _ _ h =>
  block_ext fun r c => residue_injective (congrFun (congrFun h r) c)

/-- R109: `gf_matmul` is the product of matrices. -/
theorem residueMatrix_gfMatmul (M : Matrix4) (s : Block) :
    residueMatrix (gfMatmul M s) = residueMatrix (blockOf (matrixEntry M)) * residueMatrix s := by
  ext r c
  simp only [residueMatrix, Matrix.mul_apply, Matrix.of_apply, Fin.sum_univ_four, blockAt_blockOf, blockAt_gfMatmul,
    residue_xor, residue_gfMul]

/-- The identity matrix, written as those of R185 are. -/
def matrixIdentity : Matrix4 := #v[0x01000000, 0x00010000, 0x00000100, 0x00000001]

theorem residueMatrix_matrixIdentity : residueMatrix (blockOf (matrixEntry matrixIdentity)) = 1 := by
  have hentry : ∀ r c, matrixEntry matrixIdentity r c = if r = c then 0x01 else 0x00 := by decide
  ext r c
  simp only [residueMatrix, Matrix.of_apply, blockAt_blockOf, hentry, Matrix.one_apply, apply_ite residue, residue_one,
    residue_zero]

/-- R185: the product of the two constant matrices is the identity. -/
theorem gfMatmul_matrixInverse_matrixForward :
    gfMatmul matrixInverse (blockOf (matrixEntry matrixForward)) = blockOf (matrixEntry matrixIdentity) := by decide +kernel

/-- The product is associative, and the two constant matrices cancel. -/
theorem invMixColumns_leftInverse : Function.LeftInverse invMixColumns mixColumns := fun s =>
  residueMatrix_injective (by
    rw [invMixColumns, mixColumns, residueMatrix_gfMatmul, residueMatrix_gfMatmul, ← Matrix.mul_assoc,
      ← residueMatrix_gfMatmul, gfMatmul_matrixInverse_matrixForward, residueMatrix_matrixIdentity, Matrix.one_mul])

/-! ### Columns of a product (R194, R195) -/

/-- A matrix whose row adds up to 1 gives back the byte of a column of four equal bytes. -/
theorem blockAt_gfMatmul_of_equal_bytes {M : Matrix4} {s : Block} {r c : Fin 4}
    (hrow : matrixEntry M r 0 ^^^ matrixEntry M r 1 ^^^ matrixEntry M r 2 ^^^ matrixEntry M r 3 = 0x01)
    (hcol : ∀ k, blockAt s k c = blockAt s 0 c) : blockAt (gfMatmul M s) r c = blockAt s r c := by
  rw [blockAt_gfMatmul, hcol 1, hcol 2, hcol 3, ← xor_gfMul, ← xor_gfMul, ← xor_gfMul, hrow, one_gfMul, hcol r]

theorem matrixForward_row_xor : ∀ r, matrixEntry matrixForward r 0 ^^^ matrixEntry matrixForward r 1 ^^^
    matrixEntry matrixForward r 2 ^^^ matrixEntry matrixForward r 3 = 0x01 := by decide

theorem matrixInverse_row_xor : ∀ r, matrixEntry matrixInverse r 0 ^^^ matrixEntry matrixInverse r 1 ^^^
    matrixEntry matrixInverse r 2 ^^^ matrixEntry matrixInverse r 3 = 0x01 := by decide

/-! ### The commands at completion (R190 to R196) -/

section Exec
variable (s : State)

theorem exec_subBytes : exec .subBytes s = .next (finishBlock (subBytes s.stateReg) s) := rfl

theorem exec_invSubBytes : exec .invSubBytes s = .next (finishBlock (invSubBytes s.stateReg) s) := rfl

theorem exec_shiftRows : exec .shiftRows s = .next (finishBlock (shiftRows s.stateReg) s) := rfl

theorem exec_invShiftRows : exec .invShiftRows s = .next (finishBlock (invShiftRows s.stateReg) s) := rfl

theorem exec_mixColumns : exec .mixColumns s = .next (finishBlock (mixColumns s.stateReg) s) := rfl

theorem exec_invMixColumns : exec .invMixColumns s = .next (finishBlock (invMixColumns s.stateReg) s) := rfl

/-- The index is checked before the context (R196, R233). -/
theorem exec_addRoundKey_of_gt {r : Nat} (hr : 14 < r) :
    exec (.addRoundKey r) s = .next (raiseCmdError .badRoundIndex s) := dif_neg (by omega)

variable {s}

theorem exec_addRoundKey_of_not_keyValid {r : Nat} (hr : r ≤ 14) (hk : s.keyValid = false) :
    exec (.addRoundKey r) s = .next (raiseCmdError .notInitialized s) :=
  (dif_pos hr).trans (if_neg (by simp [hk]))

theorem exec_addRoundKey_of_keyValid (r : Fin 15) (hk : s.keyValid = true) :
    exec (.addRoundKey r.val) s = .next (finishBlock (addRoundKey s.stateReg s.rk r) s) :=
  (dif_pos (Nat.le_of_lt_succ r.isLt)).trans (if_pos hk)

end Exec

/-! ### Commands in a row -/

theorem execAll_nil (s : State) : execAll [] s = .next s := rfl

theorem execAll_cons_of_exec {i : Instr} {rest : List Instr} {s t : State} (h : exec i s = .next t) :
    execAll (i :: rest) s = execAll rest t := by
  simp only [execAll, h]

/-- Of two block writes the later one counts. -/
theorem finishBlock_finishBlock (a b : Block) (s : State) : finishBlock b (finishBlock a s) = finishBlock b s := rfl

/-- A block write that writes back what STATE held only completes. -/
theorem finishBlock_stateReg_self (s : State) : finishBlock s.stateReg s = completeOk s := rfl

/-- A block command after which another writes back the old STATE: together they only complete. -/
theorem execAll_pair_restores {i j : Instr} {s : State} {b b' : Block} (hi : exec i s = .next (finishBlock b s))
    (hj : exec j (finishBlock b s) = .next (finishBlock b' (finishBlock b s))) (hb : b' = s.stateReg) :
    execAll [i, j] s = .next (completeOk s) := by
  rw [execAll_cons_of_exec hi, execAll_cons_of_exec hj, execAll_nil, finishBlock_finishBlock, hb, finishBlock_stateReg_self]

/-- Four runs of a command that applies a function of period four to STATE only complete. -/
theorem execAll_four_restores {i : Instr} {f : Block → Block}
    (hi : ∀ s, exec i s = .next (finishBlock (f s.stateReg) s)) (hf : ∀ b, f (f (f (f b))) = b) (s : State) :
    execAll [i, i, i, i] s = .next (completeOk s) := by
  simp only [execAll_cons_of_exec (hi _), execAll_nil, finishBlock_finishBlock, finishBlock_stateReg, hf,
    finishBlock_stateReg_self]

/-! ### A pending word runs its round command (R82, R83) -/

theorem subBytes_rowRuns : RowRuns 0x00000004 0xFFFFFFFF (fun _ => .subBytes) :=
  rowRuns_of_mem (r := ⟨_, _, _⟩) (by simp [opcodeTable])

theorem invSubBytes_rowRuns : RowRuns 0x00000005 0xFFFFFFFF (fun _ => .invSubBytes) :=
  rowRuns_of_mem (r := ⟨_, _, _⟩) (by simp [opcodeTable])

theorem shiftRows_rowRuns : RowRuns 0x00000006 0xFFFFFFFF (fun _ => .shiftRows) :=
  rowRuns_of_mem (r := ⟨_, _, _⟩) (by simp [opcodeTable])

theorem invShiftRows_rowRuns : RowRuns 0x00000007 0xFFFFFFFF (fun _ => .invShiftRows) :=
  rowRuns_of_mem (r := ⟨_, _, _⟩) (by simp [opcodeTable])

theorem mixColumns_rowRuns : RowRuns 0x00000008 0xFFFFFFFF (fun _ => .mixColumns) :=
  rowRuns_of_mem (r := ⟨_, _, _⟩) (by simp [opcodeTable])

theorem invMixColumns_rowRuns : RowRuns 0x00000009 0xFFFFFFFF (fun _ => .invMixColumns) :=
  rowRuns_of_mem (r := ⟨_, _, _⟩) (by simp [opcodeTable])

theorem addRoundKey_rowRuns : RowRuns 0x0000000A 0xFFFFF0FF (fun cw => .addRoundKey (fieldRidx cw).toNat) :=
  rowRuns_of_mem (r := ⟨_, _, _⟩) (by simp [opcodeTable])

/-! ### The obligations -/

/-- Settles O20: each byte by itself, and the addition is its own inverse. -/
theorem bytewiseRoundFunctions : Obligations.BytewiseRoundFunctions :=
  ⟨fun s k => ⟨subBytes_getElem s k k.isLt, invSubBytes_getElem s k k.isLt⟩,
    fun s w r j => by rw [BitVec.xor_comm]; exact getElem?_schedule_eq_xor s w r j,
    fun s w r => addRoundKey_involutive w r s⟩

/-- Settles O21: the matrix entries moved, read as bytes; left and right rotations by the same number cancel. -/
theorem shiftRowsRotatesRows : Obligations.ShiftRowsRotatesRows :=
  ⟨fun s r c hr hc => ⟨getElem?_shiftRows s ⟨r, hr⟩ ⟨c, hc⟩, getElem?_invShiftRows s ⟨r, hr⟩ ⟨c, hc⟩⟩,
    fun s => ⟨invShiftRows_leftInverse s, shiftRows_leftInverse s⟩⟩

/-- Settles O22: the rows of the two matrices written out, and their product is the identity. -/
theorem mixColumnsWrittenOut : Obligations.MixColumnsWrittenOut := by
  refine ⟨fun s c => ?_, invMixColumns_leftInverse⟩
  have hone (b : Byte) : gfMul 1#8 b = b := one_gfMul b
  simp [mixColumns, invMixColumns, blockAt_gfMatmul, matrixEntry, matrixForward, matrixInverse, hone]

/-- Settles O23: the four inverse laws and the two commutation laws. -/
theorem roundTransformLaws : Obligations.RoundTransformLaws := fun s w r =>
  ⟨invSubBytes_leftInverse s, invShiftRows_leftInverse s, invMixColumns_leftInverse s, addRoundKey_involutive w r s,
    shiftRows_subBytes s, invShiftRows_invSubBytes s⟩

/-- Settles O10: the two completions write one block, their rows run them, and the values are runs of the S-boxes. -/
theorem subBytesCommands : Obligations.SubBytesCommands :=
  ⟨fun s => ⟨exec_subBytes s, exec_invSubBytes s,
      execAll_pair_restores (exec_subBytes s) (exec_invSubBytes _) (invSubBytes_leftInverse s.stateReg)⟩,
    subBytes_rowRuns, invSubBytes_rowRuns, by decide +kernel, by decide +kernel, by decide +kernel, by decide +kernel⟩

/-- Settles O11: the two completions write one block, and what they do in a row is what the rotations do. -/
theorem shiftRowsCommands : Obligations.ShiftRowsCommands :=
  ⟨fun s => ⟨exec_shiftRows s, exec_invShiftRows s,
      execAll_pair_restores (exec_shiftRows s) (exec_invShiftRows _) (invShiftRows_leftInverse s.stateReg),
      execAll_four_restores exec_shiftRows shiftRows_four s, execAll_four_restores exec_invShiftRows invShiftRows_four s,
      fun h => by rw [exec_shiftRows, shiftRows_of_constant_rows h]; rfl⟩,
    shiftRows_rowRuns, invShiftRows_rowRuns, by decide +kernel, by decide +kernel, by decide +kernel, by decide +kernel⟩

/-- Settles O12: the two completions write one block; a column of equal bytes stays because each matrix row adds up to
1, and the worked columns are runs of the multiplier. -/
theorem mixColumnsCommands : Obligations.MixColumnsCommands := by
  refine ⟨fun s => ⟨exec_mixColumns s, exec_invMixColumns s, ?undone, fun c hcol r => ⟨?forward, ?inverse⟩,
      fun c h0 h1 h2 h3 => ?worked, fun c h0 h1 h2 h3 => ?workedInverse⟩,
    mixColumns_rowRuns, invMixColumns_rowRuns, by decide +kernel, by decide +kernel⟩
  case undone =>
    exact execAll_pair_restores (exec_mixColumns s) (exec_invMixColumns _) (invMixColumns_leftInverse s.stateReg)
  case forward => exact blockAt_gfMatmul_of_equal_bytes (matrixForward_row_xor r) hcol
  case inverse => exact blockAt_gfMatmul_of_equal_bytes (matrixInverse_row_xor r) hcol
  case worked =>
    simp only [mixColumns, blockAt_gfMatmul, h0, h1, h2, h3]
    decide
  case workedInverse =>
    simp only [invMixColumns, blockAt_gfMatmul, h0, h1, h2, h3]
    decide

/-- Settles O13: the checks in their order, then the addition, which undoes itself; right after INIT the first two round keys are
the bytes of KEY. -/
theorem addRoundKeyCommand : Obligations.AddRoundKeyCommand := by
  refine ⟨fun r s hr _ => exec_addRoundKey_of_gt s hr, fun r s hr hk => exec_addRoundKey_of_not_keyValid hr hk,
    fun r s hr hk => ?keyed, addRoundKey_rowRuns, fun s => ?afterInit, by decide +kernel, by decide +kernel⟩
  case keyed =>
    obtain ⟨i, rfl⟩ : ∃ i : Fin 15, i.val = r := ⟨⟨r, by omega⟩, rfl⟩
    exact ⟨addRoundKey s.stateReg s.rk i, exec_addRoundKey_of_keyValid i hk, getElem?_schedule_eq_xor s.stateReg s.rk i,
      execAll_pair_restores (exec_addRoundKey_of_keyValid i hk) (exec_addRoundKey_of_keyValid i hk)
        (addRoundKey_involutive s.rk i s.stateReg)⟩
  case afterInit =>
    have hrun (i : Fin 15) : execAll [.init .bytes32, .addRoundKey i.val] s = .next
        (finishBlock (addRoundKey s.stateReg (expandKey s.keyReg) i) (finishInit (expandKey s.keyReg) s)) := by
      rw [execAll_cons_of_exec (exec_init_bytes32 s), execAll_cons_of_exec (exec_addRoundKey_of_keyValid i rfl), execAll_nil]
      rfl
    refine ⟨_, _, hrun 0, hrun 1, fun j => ⟨?_, getElem_addRoundKey_expandKey s.stateReg s.keyReg (r := 1) (by decide) j⟩⟩
    simpa using getElem_addRoundKey_expandKey s.stateReg s.keyReg (r := 0) (by decide) j

end Sys2Proof.Machine
end

section
/-! PROOFS. The block cipher (44_block_cipher.md): one round of R206 undoes one of R205 and the other way round, so the fourteen
rounds do, taken in the reverse order. Then the ENCRYPT and DECRYPT commands. -/

namespace Sys2Proof.Machine

/-! ### What undoes each round function (R187, R188) -/

theorem addRoundKey_addRoundKey (s : Block) (w : Schedule) (r : Fin 15) : addRoundKey (addRoundKey s w r) w r = s :=
  addRoundKey_involutive w r s

theorem subBytes_leftInverse : Function.LeftInverse subBytes invSubBytes := fun s =>
  Vector.ext fun k hk => by rw [subBytes_getElem, invSubBytes_getElem, sbox_leftInverse]

/-- R185: the two constant matrices are inverse to each other, so they cancel in either order. -/
theorem mixColumns_leftInverse : Function.LeftInverse mixColumns invMixColumns := fun s => by
  have hinv : residueMatrix (blockOf (matrixEntry matrixInverse)) * residueMatrix (blockOf (matrixEntry matrixForward)) = 1 := by
    rw [← residueMatrix_gfMatmul, gfMatmul_matrixInverse_matrixForward, residueMatrix_matrixIdentity]
  apply residueMatrix_injective
  rw [mixColumns, invMixColumns, residueMatrix_gfMatmul, residueMatrix_gfMatmul, ← Matrix.mul_assoc, mul_eq_one_comm.1 hinv,
    Matrix.one_mul]

/-! ### One round, then all of them (R205 to R207) -/

/-- A round of R206, which starts from the shifted and substituted block, takes it back over one round of R205. -/
theorem decryptRound_encryptRound (w : Schedule) (r : Fin 15) (s : Block) :
    decryptRound w (shiftRows (subBytes (encryptRound w s r))) r = shiftRows (subBytes s) := by
  rw [decryptRound, invShiftRows_leftInverse, invSubBytes_leftInverse, encryptRound, addRoundKey_addRoundKey,
    invMixColumns_leftInverse]

theorem encryptRound_decryptRound (w : Schedule) (r : Fin 15) (s : Block) :
    encryptRound w (invSubBytes (invShiftRows (decryptRound w s r))) r = invSubBytes (invShiftRows s) := by
  rw [encryptRound, subBytes_leftInverse, shiftRows_leftInverse, decryptRound, mixColumns_leftInverse,
    addRoundKey_addRoundKey]

/-- Where one step of `g` takes `φ` back over one step of `f`, a run of `g` in the reverse order takes it back over a run of
`f`. -/
theorem foldl_reverse_foldl {α β γ : Type} {f : β → α → β} {g : γ → α → γ} {φ : β → γ}
    (h : ∀ a b, g (φ (f b a)) a = φ b) (l : List α) (b : β) : l.reverse.foldl g (φ (l.foldl f b)) = φ b := by
  induction l generalizing b with
  | nil => rfl
  | cons a l ih => rw [List.foldl_cons, List.reverse_cons, List.foldl_append, ih, List.foldl_cons, List.foldl_nil, h]

/-- R207: the outer steps cancel as they stand, the rounds between them by `foldl_reverse_foldl`. -/
theorem decryptBlock_leftInverse (w : Schedule) : Function.LeftInverse (decryptBlock · w) (encryptBlock · w) := fun s => by
  have hmid := foldl_reverse_foldl (φ := fun b => shiftRows (subBytes b)) (decryptRound_encryptRound w) middleRounds
    (addRoundKey s w 0)
  simp only [decryptBlock, encryptBlock]
  rw [addRoundKey_addRoundKey, hmid, invShiftRows_leftInverse, invSubBytes_leftInverse, addRoundKey_addRoundKey]

theorem encryptBlock_leftInverse (w : Schedule) : Function.LeftInverse (encryptBlock · w) (decryptBlock · w) := fun s => by
  have hmid := foldl_reverse_foldl (φ := fun b => invSubBytes (invShiftRows b)) (encryptRound_decryptRound w)
    middleRounds.reverse (addRoundKey s w 14)
  rw [List.reverse_reverse] at hmid
  simp only [encryptBlock, decryptBlock]
  rw [addRoundKey_addRoundKey, hmid, subBytes_leftInverse, shiftRows_leftInverse, addRoundKey_addRoundKey]

/-! ### The commands at completion (R210, R211) -/

section Exec
variable {s : State}

theorem exec_encrypt_of_not_keyValid (hk : s.keyValid = false) :
    exec .encrypt s = .next (raiseCmdError .notInitialized s) := if_neg (by simp [hk])

theorem exec_decrypt_of_not_keyValid (hk : s.keyValid = false) :
    exec .decrypt s = .next (raiseCmdError .notInitialized s) := if_neg (by simp [hk])

theorem exec_encrypt_of_keyValid (hk : s.keyValid = true) :
    exec .encrypt s = .next (finishBlock (encryptBlock s.stateReg s.rk) s) := if_pos hk

theorem exec_decrypt_of_keyValid (hk : s.keyValid = true) :
    exec .decrypt s = .next (finishBlock (decryptBlock s.stateReg s.rk) s) := if_pos hk

end Exec

theorem encrypt_rowRuns : RowRuns 0x00000002 0xFFFFFFFF (fun _ => .encrypt) :=
  rowRuns_of_mem (r := ⟨_, _, _⟩) (by simp [opcodeTable])

theorem decrypt_rowRuns : RowRuns 0x00000003 0xFFFFFFFF (fun _ => .decrypt) :=
  rowRuns_of_mem (r := ⟨_, _, _⟩) (by simp [opcodeTable])

/-- R210's example, the one worked encryption whose decryption is an example too (R211). -/
theorem encryptBlock_exampleBlock :
    encryptBlock exampleBlock (expandKey countingKey) = hexBlock 0x8ea2b7ca516745bfeafc49904b496089 := by decide +kernel

/-! ### The obligations -/

/-- Settles O24: every outer step and every round is undone, in the reverse order. -/
theorem cipherRoundTrip : Obligations.CipherRoundTrip := fun s w =>
  ⟨decryptBlock_leftInverse w s, encryptBlock_leftInverse w s⟩

/-- Settles O14: the two completions check the context and write one block, they undo each other by the round trip, their rows
run them, and of the four worked values one decryption follows from the encryption it undoes. -/
theorem cipherCommands : Obligations.CipherCommands := by
  refine ⟨fun s hk => ⟨exec_encrypt_of_not_keyValid hk, exec_decrypt_of_not_keyValid hk⟩,
    fun s hk => ⟨exec_encrypt_of_keyValid hk, exec_decrypt_of_keyValid hk, ?encryptDecrypt, ?decryptEncrypt⟩,
    encrypt_rowRuns, decrypt_rowRuns, encryptBlock_exampleBlock, ?decryptExample, by decide +kernel, by decide +kernel⟩
  case encryptDecrypt =>
    exact execAll_pair_restores (exec_encrypt_of_keyValid hk) (exec_decrypt_of_keyValid hk)
      (decryptBlock_leftInverse s.rk s.stateReg)
  case decryptEncrypt =>
    exact execAll_pair_restores (exec_decrypt_of_keyValid hk) (exec_encrypt_of_keyValid hk)
      (encryptBlock_leftInverse s.rk s.stateReg)
  case decryptExample =>
    rw [← encryptBlock_exampleBlock]
    exact decryptBlock_leftInverse (expandKey countingKey) exampleBlock

end Sys2Proof.Machine
end

section
/-! PROOFS. Errors (60_exceptions.md): a completion that leaves a code changed nothing else, and the code is that of the first check
that fails. -/

namespace Sys2Proof.Machine

/-! ### A pending word runs the command it decodes to (R270) -/

theorem complete_of_decode {s : State} {i : Instr} (hb : s.busy = true) (hd : Sys2Proof.decode s.pend = .instr i) :
    complete s = exec i s := by
  simp only [complete, hb, if_true, execute, hd]

theorem complete_of_illegal {s : State} {why : IllegalWord} (hb : s.busy = true)
    (hd : Sys2Proof.decode s.pend = .illegal why) : complete s = .next (raiseCmdError .illegalCommand s) :=
  complete_of_not_instr hb fun i hi => by cases hd.symm.trans hi

/-! ### What a command leaves (R232, R270) -/

variable {i : Instr} {s t : State}

/-- Of the four ways a command can end only the raised error leaves a code, and it writes nothing but ERR and BUSY (R232); BUSY
falls in all four (R270). -/
theorem exec_frame (h : exec i s = .next t) :
    t.busy = false ∧ (t.err = 0x0 ∨ t = { s with err := t.err, busy := false }) := by
  obtain ⟨t', ht', hshape⟩ := exec_cases i s
  obtain rfl : t' = t := Host.Outcome.next.inj (ht'.symm.trans h)
  obtain ⟨c, -, rfl⟩ | ⟨r, rfl⟩ | ⟨b, rfl⟩ | ⟨-, rfl⟩ := hshape
  · exact ⟨rfl, .inr rfl⟩
  · exact ⟨rfl, .inl rfl⟩
  · exact ⟨rfl, .inl rfl⟩
  · exact ⟨rfl, .inl rfl⟩

theorem exec_busy (h : exec i s = .next t) : t.busy = false := (exec_frame h).1

theorem eq_of_exec_of_err_ne_zero (h : exec i s = .next t) (herr : t.err ≠ 0x0) :
    t = { s with err := t.err, busy := false } := (exec_frame h).2.resolve_left herr

/-! ### The code a command reports (R233) -/

/-- The command completes from `s` with `e` in ERR. -/
def Reports (i : Instr) (s : State) (e : BitVec 4) : Prop := ∃ t, exec i s = .next t ∧ t.err = e

variable {e e' : BitVec 4}

/-- A command that reports an error changes ERR and BUSY and nothing else (R232). -/
theorem Reports.exec_eq_of_ne_zero (h : Reports i s e) (he : e ≠ 0x0) :
    exec i s = .next { s with err := e, busy := false } := by
  obtain ⟨t, ht, rfl⟩ := h
  exact ht.trans (congrArg _ (eq_of_exec_of_err_ne_zero ht he))

/-- R233: a pending command that reports an error changes ERR and BUSY and nothing else; one that reports 0x0 has its own effect. -/
theorem Reports.complete_eq (hrun : complete s = exec i s) (h : Reports i s e) :
    (e ≠ 0x0 → complete s = .next { s with err := e, busy := false }) ∧
    (e = 0x0 → ∃ t, complete s = .next t ∧ exec i s = .next t ∧ t.err = 0x0 ∧ t.busy = false) := by
  rw [hrun]
  refine ⟨h.exec_eq_of_ne_zero, fun hzero => ?_⟩
  obtain ⟨t, ht, herr⟩ := h
  exact ⟨t, ht, ht, herr.trans hzero, exec_busy ht⟩

/-- A check: what is reported when it holds and what when it does not. -/
theorem Reports.ite {p : Prop} [Decidable p] (hpos : p → Reports i s e) (hneg : ¬p → Reports i s e') :
    Reports i s (if p then e else e') := by
  split
  · exact hpos ‹p›
  · exact hneg ‹¬p›

theorem reports_init (k : KeySel) (s : State) : Reports (.init k) s (if k = .bytes32 then 0x0 else 0x2) :=
  .ite (fun hk => hk ▸ ⟨_, exec_init_bytes32 s, rfl⟩) (fun hk => ⟨_, exec_init_of_ne hk s, rfl⟩)

theorem reports_encrypt (s : State) : Reports .encrypt s (if s.keyValid then 0x0 else 0x3) :=
  .ite (fun hk => ⟨_, exec_encrypt_of_keyValid hk, rfl⟩)
    (fun hk => ⟨_, exec_encrypt_of_not_keyValid (Bool.eq_false_iff.2 hk), rfl⟩)

theorem reports_decrypt (s : State) : Reports .decrypt s (if s.keyValid then 0x0 else 0x3) :=
  .ite (fun hk => ⟨_, exec_decrypt_of_keyValid hk, rfl⟩)
    (fun hk => ⟨_, exec_decrypt_of_not_keyValid (Bool.eq_false_iff.2 hk), rfl⟩)

/-- The one command with two checks: the index first, whatever the context state (R196). -/
theorem reports_addRoundKey (r : Nat) (s : State) :
    Reports (.addRoundKey r) s (if 14 < r then 0x4 else if s.keyValid then 0x0 else 0x3) :=
  .ite (fun hr => ⟨_, exec_addRoundKey_of_gt s hr, rfl⟩) fun hr =>
    .ite (fun hk => ⟨_, exec_addRoundKey_of_keyValid ⟨r, by omega⟩ hk, rfl⟩)
      (fun hk => ⟨_, exec_addRoundKey_of_not_keyValid (by omega) (Bool.eq_false_iff.2 hk), rfl⟩)

/-! ### The fields the operand checks read (R81) -/

theorem bytes32_iff_of_decode_init {cw : Word} {k : KeySel} (h : Sys2Proof.decode cw = .instr (.init k)) :
    k = .bytes32 ↔ cw.extractLsb' 12 2 = 0b10 := by
  obtain ⟨-, hk⟩ := ((tableRowsSelectWords.1 cw).1 k).1 h
  rw [← keySelOfBits_eq_bytes32_iff, (keySelOfBits_eq_iff _ k).2 hk]

theorem eq_ridx_of_decode_addRoundKey {cw : Word} {r : Nat} (h : Sys2Proof.decode cw = .instr (.addRoundKey r)) :
    r = (cw.extractLsb' 8 4).toNat := by
  obtain ⟨-, -, -, -, -, -, -, -, -, hrow, -⟩ := tableRowsSelectWords.1 cw
  exact ((hrow r).1 h).2

/-! ### The obligations -/

/-- Settles O26: a word that is no command raises ILLEGAL_COMMAND, and of a command's endings only the raised error leaves a
code. -/
theorem failedCommandChangesOnlyErr : Obligations.FailedCommandChangesOnlyErr := by
  intro s t hb hrun herr
  cases hd : Sys2Proof.decode s.pend with
  | instr i => exact eq_of_exec_of_err_ne_zero ((complete_of_decode hb hd).symm.trans hrun) herr
  | illegal why =>
    obtain rfl := Host.Outcome.next.inj ((complete_of_illegal hb hd).symm.trans hrun)
    rfl

/-- Settles O27: every command reports the code of its first failing check; a code that is not 0x0 came with nothing else, and
0x0 is the command's own effect. -/
theorem checksRunInOrder : Obligations.ChecksRunInOrder := by
  intro s hb
  refine ⟨fun why hd => complete_of_illegal hb hd, fun i hd => Reports.complete_eq (complete_of_decode hb hd) ?_⟩
  cases i with
  | init k =>
    simp only [← bytes32_iff_of_decode_init hd]
    exact reports_init k s
  | addRoundKey r =>
    simp only [← eq_ridx_of_decode_addRoundKey hd]
    exact reports_addRoundKey r s
  | encrypt => exact reports_encrypt s
  | decrypt => exact reports_decrypt s
  | subBytes | invSubBytes | shiftRows | invShiftRows | mixColumns | invMixColumns => exact ⟨_, rfl, rfl⟩
  | gfAdd | gfMul | gfInv | sboxFwd | sboxInv => exact ⟨_, rfl, rfl⟩

end Sys2Proof.Machine
end

section
/-! PROOFS. Encoding, both ways (30_encoding.md): what a row reads from a word encodes to the row's value and the word's own bits
outside the row's mask, and every command is what its row reads from its encoding. -/

namespace Sys2Proof

theorem keySelBits_keySelOfBits : ∀ x : BitVec 2, keySelBits (keySelOfBits x) = x := by decide

/-- The format of R80 packs fields of a word, each cut down by a mask of its own, into the word cut down by all of them. -/
theorem packCommand_fields_and (cw : Word) (mb ma : Byte) (mk : BitVec 2) (mr : BitVec 4) (op : BitVec 5) :
    packCommand (fieldB cw &&& mb) (fieldA cw &&& ma) (fieldKsz cw &&& mk) (fieldRidx cw &&& mr) op =
      op.setWidth 32 ||| (cw &&& packCommand mb ma mk mr 0) := by
  ext i hi
  simp only [packCommand, fieldB, fieldA, fieldKsz, fieldRidx, BitVec.getElem_or, BitVec.getElem_and,
    BitVec.getElem_setWidth]
  grind

/-- What a row reads from a word encodes to the row's value, with the word's own bits where the row fixes none (R82). -/
theorem encode_build (cw : Word) : ∀ r ∈ opcodeTable, encode (r.build cw) = r.value ||| (cw &&& ~~~r.mask) := by
  have hksz := packCommand_fields_and cw 0#8 0#8 (.allOnes 2) 0#4
  have hridx := packCommand_fields_and cw 0#8 0#8 0#2 (.allOnes 4)
  have hone := packCommand_fields_and cw 0#8 (.allOnes 8) 0#2 0#4
  have htwo := packCommand_fields_and cw (.allOnes 8) (.allOnes 8) 0#2 0#4
  simp only [BitVec.and_allOnes, BitVec.and_zero] at hksz hridx hone htwo
  -- what is left of each row is an evaluation of its packed mask
  simp [opcodeTable, encode, keySelBits_keySelOfBits, hksz, hridx, hone, htwo]
  and_intros <;> rfl

theorem wellFormed_build (cw : Word) : ∀ r ∈ opcodeTable, (r.build cw).wellFormed = true := by
  simpa [opcodeTable, Instr.wellFormed] using (fieldRidx cw).isLt

/-- Every command that has an encoding is what its row reads from it. -/
theorem exists_build_encode {i : Instr} (h : i.wellFormed = true) : ∃ r ∈ opcodeTable, r.build (encode i) = i := by
  cases i with
  | addRoundKey r =>
    have hr : r < 16 := by simpa [Instr.wellFormed] using h
    simp [opcodeTable, encode, Nat.mod_eq_of_lt hr]
  | _ => simp [opcodeTable, encode]

theorem value_and_mask : ∀ r ∈ opcodeTable, r.value &&& r.mask = r.value := by decide

/-- A row selects the encoding of whatever it reads. -/
theorem encode_build_and_mask {r : Row} (hr : r ∈ opcodeTable) (cw : Word) : encode (r.build cw) &&& r.mask = r.value := by
  simp [encode_build cw r hr, BitVec.and_or_distrib_right, value_and_mask r hr, BitVec.and_assoc]

/-! ### The obligations -/

/-- Settles O1: every command is what its row reads from its encoding, and that row selects the encoding. -/
theorem decodeInvertsEncode : Obligations.DecodeInvertsEncode := fun i hi => by
  obtain ⟨r, hr, hbuild⟩ := exists_build_encode hi
  refine decode_eq_instr_iff.2 ⟨r, hr, ?_, hbuild⟩
  rw [← encode_build_and_mask hr (encode i), hbuild]

/-- Settles O2: what the selecting row reads encodes to the word inside the row's mask and the word outside it. -/
theorem decodedWordReencodes : Obligations.DecodedWordReencodes := fun cw i h => by
  obtain ⟨r, hr, hsel, rfl⟩ := decode_eq_instr_iff.1 h
  refine ⟨wellFormed_build cw r hr, ?_⟩
  rw [encode_build cw r hr, ← hsel, ← BitVec.and_or_distrib_left, BitVec.or_not_self, BitVec.and_allOnes]

/-- Settles O5: the decoder run on each word. -/
theorem sampleWordsDecode : Obligations.SampleWordsDecode := by
  unfold Obligations.SampleWordsDecode
  decide

end Sys2Proof
end


section
/-! PROOFS. Completions (60_exceptions.md section 4, 30_encoding.md section 3): a command ends in one of four ways, and two states
with the same operands end in the same one. Then what each command may write, and the ciphers as round commands in a row. -/

namespace Sys2Proof.Machine

/-! ### How a completion ends (R88, R232) -/

/-- The four ways a completion can end, with what it writes. -/
inductive Ending where
  | raised (c : ErrCode)
  | byte (r : Byte)
  | block (b : Block)
  | expanded (w : Schedule)

/-- The state an ending leaves. -/
def Ending.leave : Ending → State → State
  | .raised c => raiseCmdError c
  | .byte r => finishByte r
  | .block b => finishBlock b
  | .expanded w => finishInit w

namespace Ending
variable (e : Ending) (s : State)

@[simp] theorem leave_busy : (e.leave s).busy = false := by cases e <;> rfl
@[simp] theorem leave_ovr : (e.leave s).ovr = s.ovr := by cases e <;> rfl
@[simp] theorem leave_keyReg : (e.leave s).keyReg = s.keyReg := by cases e <;> rfl
@[simp] theorem leave_pend : (e.leave s).pend = s.pend := by cases e <;> rfl
@[simp] theorem leave_hostProgram : (e.leave s).hostProgram = s.hostProgram := by cases e <;> rfl
@[simp] theorem leave_turns : (e.leave s).turns = s.turns := by cases e <;> rfl
@[simp] theorem leave_readLog : (e.leave s).readLog = s.readLog := by cases e <;> rfl
@[simp] theorem leave_freeCount : (e.leave s).freeCount = s.freeCount := by cases e <;> rfl

theorem legalErr_leave : legalErr (e.leave s).err = true := by
  cases e with
  | raised c => exact c.bits_legal
  | byte | block | expanded => rfl

/-- Only a new expansion writes the context. -/
theorem leave_context : (∃ w, e = .expanded w ∧ (e.leave s).rk = w ∧ (e.leave s).keyValid = true) ∨
    ((e.leave s).rk = s.rk ∧ (e.leave s).keyValid = s.keyValid) := by
  cases e with
  | expanded w => exact .inl ⟨w, rfl, rfl, rfl⟩
  | raised | byte | block => exact .inr ⟨rfl, rfl⟩

end Ending

/-- What `i` reads from the state is the same in `s` and `t`: the context and STATE, and KEY where `i` expands it (R88). -/
structure SameOperands (i : Instr) (s t : State) : Prop where
  keyValid : t.keyValid = s.keyValid
  stateReg : t.stateReg = s.stateReg
  rk : s.keyValid = true → t.rk = s.rk
  keyReg : i = .init .bytes32 → t.keyReg = s.keyReg

/-- The five byte commands (R88). -/
def writesResult : Instr → Bool
  | .gfAdd _ _ | .gfMul _ _ | .gfInv _ | .sboxFwd _ | .sboxInv _ => true
  | .init _ | .encrypt | .decrypt | .addRoundKey _ => false
  | .subBytes | .invSubBytes | .shiftRows | .invShiftRows | .mixColumns | .invMixColumns => false

/-- ENCRYPT, DECRYPT and the seven round commands (R88). -/
def writesState : Instr → Bool
  | .encrypt | .decrypt | .addRoundKey _ => true
  | .subBytes | .invSubBytes | .shiftRows | .invShiftRows | .mixColumns | .invMixColumns => true
  | .init _ | .gfAdd _ _ | .gfMul _ _ | .gfInv _ | .sboxFwd _ | .sboxInv _ => false

/-- The endings `i` can come to from `s`: any command can raise an error, and what else it writes is a register of its own kind
(R88). -/
def Ending.Of (i : Instr) (s : State) : Ending → Prop
  | .raised _ => True
  | .byte _ => writesResult i = true
  | .block _ => writesState i = true
  | .expanded w => i = .init .bytes32 ∧ w = expandKey s.keyReg

/-- How a command ends is decided by its operands. -/
theorem exec_ending (i : Instr) (s : State) : ∃ e : Ending, e.Of i s ∧
    ∀ t, SameOperands i s t → exec i t = .next (e.leave t) := by
  cases i with
  | init k =>
    by_cases hk : k = .bytes32
    · subst hk
      exact ⟨.expanded (expandKey s.keyReg), ⟨rfl, rfl⟩,
        fun t h => by rw [exec_init_bytes32, h.keyReg rfl]; rfl⟩
    · exact ⟨.raised .invalidKeyLength, trivial, fun t _ => exec_init_of_ne hk t⟩
  | encrypt =>
    cases hk : s.keyValid
    · exact ⟨.raised .notInitialized, trivial, fun t h => exec_encrypt_of_not_keyValid (h.keyValid.trans hk)⟩
    · exact ⟨.block (encryptBlock s.stateReg s.rk), rfl,
        fun t h => by rw [exec_encrypt_of_keyValid (h.keyValid.trans hk), h.stateReg, h.rk hk]; rfl⟩
  | decrypt =>
    cases hk : s.keyValid
    · exact ⟨.raised .notInitialized, trivial, fun t h => exec_decrypt_of_not_keyValid (h.keyValid.trans hk)⟩
    · exact ⟨.block (decryptBlock s.stateReg s.rk), rfl,
        fun t h => by rw [exec_decrypt_of_keyValid (h.keyValid.trans hk), h.stateReg, h.rk hk]; rfl⟩
  | addRoundKey r =>
    by_cases hr : r ≤ 14
    · cases hk : s.keyValid
      · exact ⟨.raised .notInitialized, trivial, fun t h => exec_addRoundKey_of_not_keyValid hr (h.keyValid.trans hk)⟩
      · exact ⟨.block (addRoundKey s.stateReg s.rk ⟨r, by omega⟩), rfl, fun t h => by
          rw [exec_addRoundKey_of_keyValid ⟨r, by omega⟩ (h.keyValid.trans hk), h.stateReg, h.rk hk]; rfl⟩
    · exact ⟨.raised .badRoundIndex, trivial, fun t _ => exec_addRoundKey_of_gt t (by omega)⟩
  | subBytes => exact ⟨.block (subBytes s.stateReg), rfl, fun t h => by rw [exec_subBytes, h.stateReg]; rfl⟩
  | invSubBytes => exact ⟨.block (invSubBytes s.stateReg), rfl, fun t h => by rw [exec_invSubBytes, h.stateReg]; rfl⟩
  | shiftRows => exact ⟨.block (shiftRows s.stateReg), rfl, fun t h => by rw [exec_shiftRows, h.stateReg]; rfl⟩
  | invShiftRows => exact ⟨.block (invShiftRows s.stateReg), rfl, fun t h => by rw [exec_invShiftRows, h.stateReg]; rfl⟩
  | mixColumns => exact ⟨.block (mixColumns s.stateReg), rfl, fun t h => by rw [exec_mixColumns, h.stateReg]; rfl⟩
  | invMixColumns => exact ⟨.block (invMixColumns s.stateReg), rfl, fun t h => by rw [exec_invMixColumns, h.stateReg]; rfl⟩
  | gfAdd a b => exact ⟨.byte (a ^^^ b), rfl, fun t _ => rfl⟩
  | gfMul a b => exact ⟨.byte (gfMul a b), rfl, fun t _ => rfl⟩
  | gfInv a => exact ⟨.byte (gfInv a), rfl, fun t _ => rfl⟩
  | sboxFwd a => exact ⟨.byte (sbox a), rfl, fun t _ => rfl⟩
  | sboxInv a => exact ⟨.byte (invSbox a), rfl, fun t _ => rfl⟩

/-- The pending word expands KEY when it completes. -/
def Initializes (s : State) : Prop := Sys2Proof.decode s.pend = .instr (.init .bytes32)

/-- What a completion reads is the same in `s` and `t`: the pending word, the context and STATE, and KEY where it is expanded. -/
structure SameCompletion (s t : State) : Prop where
  pend : t.pend = s.pend
  keyValid : t.keyValid = s.keyValid
  stateReg : t.stateReg = s.stateReg
  rk : s.keyValid = true → t.rk = s.rk
  keyReg : Initializes s → t.keyReg = s.keyReg

/-- States with the same core registers, whatever OVR and the host's side are. -/
theorem SameCompletion.of_registers {s t : State} (hpend : t.pend = s.pend) (hkv : t.keyValid = s.keyValid)
    (hst : t.stateReg = s.stateReg) (hrk : t.rk = s.rk) (hkey : t.keyReg = s.keyReg) : SameCompletion s t :=
  ⟨hpend, hkv, hst, fun _ => hrk, fun _ => hkey⟩

theorem SameCompletion.refl (s : State) : SameCompletion s s := .of_registers rfl rfl rfl rfl rfl

/-- How a pending command ends is decided by its word and operands. -/
theorem execute_ending (s : State) : ∃ e : Ending, (∀ w, e = .expanded w → Initializes s ∧ w = expandKey s.keyReg) ∧
    ∀ t, SameCompletion s t → execute t = .next (e.leave t) := by
  unfold execute Initializes
  cases hd : Sys2Proof.decode s.pend with
  | instr i =>
    obtain ⟨e, hof, hexec⟩ := exec_ending i s
    refine ⟨e, ?_, fun t h => ?_⟩
    · rintro w rfl
      exact ⟨congrArg _ hof.1, hof.2⟩
    · rw [h.pend, hd]
      exact hexec t ⟨h.keyValid, h.stateReg, h.rk, fun hi => h.keyReg (hd.trans (congrArg _ hi))⟩
  | illegal why =>
    refine ⟨.raised .illegalCommand, nofun, fun t h => ?_⟩
    rw [h.pend, hd]
    rfl

/-! ### The obligations -/

/-- Settles O28: an ending's frame, and the endings a command can come to. -/
theorem commandsWriteOnlyTheirRegisters : Obligations.CommandsWriteOnlyTheirRegisters := by
  intro i s t h
  obtain ⟨e, hof, hexec⟩ := exec_ending i s
  obtain rfl := Host.Outcome.next.inj ((hexec s ⟨rfl, rfl, fun _ => rfl, fun _ => rfl⟩).symm.trans h)
  refine ⟨by simp, by simp, by simp, by simp, by simp, by simp, by simp, by simp, fun hi => ?context, fun h2 h1 => ?result,
    fun hi hr => ?state⟩
  case context =>
    cases e with
    | expanded w => exact absurd hof.1 hi
    | raised | byte | block => exact ⟨rfl, rfl⟩
  case result =>
    cases e with
    | byte r => cases i <;> simp_all [Ending.Of, writesResult]
    | raised | block | expanded => rfl
  case state =>
    cases e with
    | block b => cases i <;> simp_all [Ending.Of, writesState]
    | raised | byte | expanded => rfl

end Sys2Proof.Machine
end


section
/-! PROOFS. The block cipher as round commands in a row (R242): with a context each round command applies one function to STATE, so
a list of them applies their composition, and the lists of R205's and R206's steps apply the ciphers. -/

namespace Sys2Proof.Machine

theorem execAll_append {is js : List Instr} {s t : State} (h : execAll is s = .next t) :
    execAll (is ++ js) s = execAll js t := by
  induction is generalizing s with
  | nil => rw [List.nil_append, Host.Outcome.next.inj h]
  | cons i is ih =>
    obtain ⟨u, hu, -⟩ := exec_cases i s
    rw [execAll_cons_of_exec hu] at h
    rw [List.cons_append, execAll_cons_of_exec hu, ih h]

/-- With `w` as its context, the commands in a row apply `f` to STATE and complete. -/
def Applies (w : Schedule) (is : List Instr) (f : Block → Block) : Prop :=
  ∀ s : State, s.keyValid = true → s.rk = w → execAll is s = .next (finishBlock (f s.stateReg) s)

section Applies
variable {w : Schedule} {is js : List Instr} {f g : Block → Block}

theorem Applies.append (hf : Applies w is f) (hg : Applies w js g) : Applies w (is ++ js) (g ∘ f) := fun s hk hw => by
  rw [execAll_append (hf s hk hw), hg (finishBlock _ s) hk hw, finishBlock_finishBlock]
  rfl

/-- Commands round by round after others: the rounds are folded over what the others leave. -/
theorem Applies.append_flatMap {ι : Type} {c : ι → List Instr} {round : Block → ι → Block} (hf : Applies w is f)
    (hround : ∀ r, Applies w (c r) (round · r)) (rs : List ι) :
    Applies w (is ++ rs.flatMap c) (fun b => rs.foldl round (f b)) := by
  induction rs generalizing is f with
  | nil => simpa using hf
  | cons r rs ih => simpa using ih (hf.append (hround r))

/-- One command that applies `f`. -/
theorem applies_singleton {i : Instr}
    (h : ∀ s : State, s.keyValid = true → s.rk = w → exec i s = .next (finishBlock (f s.stateReg) s)) :
    Applies w [i] f := fun s hk hw => by rw [execAll_cons_of_exec (h s hk hw), execAll_nil]

end Applies

section Rounds
variable (w : Schedule)

theorem applies_addRoundKey (r : Fin 15) : Applies w [.addRoundKey r.val] (addRoundKey · w r) :=
  applies_singleton fun _ hk hw => hw ▸ exec_addRoundKey_of_keyValid r hk

theorem applies_subBytes : Applies w [.subBytes] subBytes := applies_singleton fun s _ _ => exec_subBytes s

theorem applies_invSubBytes : Applies w [.invSubBytes] invSubBytes := applies_singleton fun s _ _ => exec_invSubBytes s

theorem applies_shiftRows : Applies w [.shiftRows] shiftRows := applies_singleton fun s _ _ => exec_shiftRows s

theorem applies_invShiftRows : Applies w [.invShiftRows] invShiftRows := applies_singleton fun s _ _ => exec_invShiftRows s

theorem applies_mixColumns : Applies w [.mixColumns] mixColumns := applies_singleton fun s _ _ => exec_mixColumns s

theorem applies_invMixColumns : Applies w [.invMixColumns] invMixColumns := applies_singleton fun s _ _ => exec_invMixColumns s

/-- The commands of one full round of R205. -/
theorem applies_encryptRound (r : Fin 15) :
    Applies w [.subBytes, .shiftRows, .mixColumns, .addRoundKey r.val] (encryptRound w · r) :=
  (((applies_subBytes w).append (applies_shiftRows w)).append (applies_mixColumns w)).append (applies_addRoundKey w r)

/-- The commands of one full round of R206. -/
theorem applies_decryptRound (r : Fin 15) :
    Applies w [.invShiftRows, .invSubBytes, .addRoundKey r.val, .invMixColumns] (decryptRound w · r) :=
  (((applies_invShiftRows w).append (applies_invSubBytes w)).append (applies_addRoundKey w r)).append
    (applies_invMixColumns w)

/-- The round numbers 1 to 13 as indexes of round keys. -/
theorem range'_eq_map_middleRounds : List.range' 1 13 = middleRounds.map Fin.val := rfl

theorem applies_encryptCommands : Applies w encryptCommands (encryptBlock · w) := by
  have hfinal := ((applies_subBytes w).append (applies_shiftRows w)).append (applies_addRoundKey w 14)
  have hall := ((applies_addRoundKey w 0).append_flatMap (applies_encryptRound w) middleRounds).append hfinal
  rw [encryptCommands, range'_eq_map_middleRounds, List.flatMap_map]
  exact hall

theorem applies_decryptCommands : Applies w decryptCommands (decryptBlock · w) := by
  have hfinal := ((applies_invShiftRows w).append (applies_invSubBytes w)).append (applies_addRoundKey w 0)
  have hall := ((applies_addRoundKey w 14).append_flatMap (applies_decryptRound w) middleRounds.reverse).append hfinal
  rw [decryptCommands, range'_eq_map_middleRounds, ← List.map_reverse, List.flatMap_map]
  exact hall

end Rounds

/-- Settles O25: both lists of round commands apply their cipher to STATE, which is what ENCRYPT and DECRYPT do. -/
theorem roundCommandsReproduceCipher : Obligations.RoundCommandsReproduceCipher := fun s hk =>
  ⟨(applies_encryptCommands s.rk s hk rfl).trans (exec_encrypt_of_keyValid hk).symm,
    (applies_decryptCommands s.rk s hk rfl).trans (exec_decrypt_of_keyValid hk).symm⟩

end Sys2Proof.Machine
end


section
/-! PROOFS. Host accesses and what they leave unchanged (20_memory.md sections 2 to 4): a word of STATE reads back, a read changes
the host's side only, and a write neither the context nor RESULT nor ERR. -/

namespace Sys2Proof.Machine

/-! ### Words of a byte array (R55) -/

theorem writeLanes_writeLanes {n : Nat} (A : Vector Byte n) (base : Nat) (v : Word) :
    writeLanes (writeLanes A base v) base v = writeLanes A base v := by
  ext i hi
  simp only [writeLanes_getElem]
  split <;> rfl

/-- A word of the array apart from the one written is as before. -/
theorem laneWord_writeLanes_of_disjoint {n : Nat} (A : Vector Byte n) {base base' : Nat} (h : base' + 3 < n) (v : Word)
    (hd : base' + 4 ≤ base ∨ base + 4 ≤ base') : laneWord (writeLanes A base v) base' h = laneWord A base' h := by
  have hbyte (k : Nat) (hk : k < 4) : (writeLanes A base v)[base' + k] = A[base' + k] :=
    writeLanes_outside A base v (base' + k) (by omega) (by omega)
  have h0 : (writeLanes A base v)[base'] = A[base'] := hbyte 0 (by decide)
  rw [laneWord, laneWord, h0, hbyte 1 (by decide), hbyte 2 (by decide), hbyte 3 (by decide)]

/-! ### Reads (R52, R59) -/

/-- A read is unspecified exactly where it could show a result that is not there yet (R52). -/
theorem busRead_eq_none_iff (off : Offset) (s : State) : busRead off s = none ↔ s.busy = true ∧
    (busReg off = .result ∨ (∃ j, busReg off = .state j) ∨ ((∃ i, busReg off = .rk i) ∧ s.keyValid = true)) := by
  cases h : busReg off with
  | cmd => simp [busRead_cmd s h]
  | status => simp [busRead_status s h]
  | result => simp [busRead_result s h]
  | state j => simp [busRead_state s h]
  | key j => simp [busRead_key s h]
  | rk i =>
    rw [busRead_rk s h]
    cases s.keyValid <;> simp
  | reserved => simp [busRead_reserved s h]

/-- A read changes nothing but what the host has read and the counter of free values (R63). -/
theorem hostRead_frame (off : Offset) (s : State) :
    ∃ log n, hostRead off s = { s with readLog := log, freeCount := n } := by
  obtain ⟨v, -, h⟩ | ⟨-, h⟩ := hostRead_cases off s <;> exact ⟨_, _, h⟩

section
variable (off : Offset) (s : State)

@[simp] theorem hostRead_busy : (hostRead off s).busy = s.busy := by
  obtain ⟨_, _, h⟩ := hostRead_frame off s
  rw [h]

@[simp] theorem hostRead_ovr : (hostRead off s).ovr = s.ovr := by
  obtain ⟨_, _, h⟩ := hostRead_frame off s
  rw [h]

end

/-- A read that the busy rule allows draws no free value (R272). -/
theorem freeCount_hostRead {off : Offset} {s : State} (h : s.busy = true → showsResult (busReg off) = false) :
    (hostRead off s).freeCount = s.freeCount := by
  obtain ⟨v, -, hv⟩ | ⟨hnone, -⟩ := hostRead_cases off s
  · rw [hv, logRead_freeCount]
  · obtain ⟨hb, hreg⟩ := (busRead_eq_none_iff off s).1 hnone
    have hshow := h hb
    obtain hr | ⟨j, hr⟩ | ⟨⟨i, hr⟩, -⟩ := hreg <;> cases hr ▸ hshow

/-! ### Writes (R53) -/

/-- What no write changes: the context, RESULT, ERR and the host's side. -/
theorem busWrite_frame (off : Offset) (v : Word) (s : State) : ∃ busy ovr b K cw,
    busWrite off v s = { s with busy := busy, ovr := ovr, stateReg := b, keyReg := K, pend := cw } := by
  obtain ⟨-, -, h⟩ | ⟨-, -, h⟩ | ⟨-, h⟩ | ⟨j, -, -, h⟩ | ⟨j, -, -, h⟩ | ⟨-, h⟩ := busWrite_cases off v s
  case inr.inr.inl => exact ⟨_, _, _, _, _, h.trans (writeStatus_eq v s)⟩
  all_goals exact ⟨_, _, _, _, _, h⟩

/-- While BUSY = 1 a write can change OVR only (R57). -/
theorem busWrite_of_busy (off : Offset) (v : Word) {s : State} (hb : s.busy = true) :
    ∃ ovr, busWrite off v s = { s with ovr := ovr } := by
  obtain ⟨-, hi, -⟩ | ⟨-, -, h⟩ | ⟨-, h⟩ | ⟨j, -, hi, -⟩ | ⟨j, -, hi, -⟩ | ⟨-, h⟩ := busWrite_cases off v s
  · simp [hb] at hi
  · exact ⟨_, h⟩
  · exact ⟨_, h.trans (writeStatus_eq v s)⟩
  · simp [hb] at hi
  · simp [hb] at hi
  · exact ⟨_, h⟩

/-! What the registers that a write can change hold after it. -/

section
variable (off : Offset) (v : Word) (s : State)

theorem busWrite_busy : (busWrite off v s).busy = (s.busy || isCmd (busReg off)) := by
  unfold busWrite
  cases busReg off <;> cases hb : s.busy <;> simp [isCmd, hb, writeStatus_eq]

theorem busWrite_ovr : (busWrite off v s).ovr =
    if s.busy && droppedWhenBusy (busReg off) then true else s.ovr && !(isStatus (busReg off) && v.getLsbD 3) := by
  unfold busWrite
  cases busReg off <;> cases hb : s.busy <;> simp [droppedWhenBusy, isCmd, isState, isKey, isStatus, writeStatus_eq]

theorem busWrite_freeCount : (busWrite off v s).freeCount = s.freeCount := by
  obtain ⟨_, _, _, _, _, h⟩ := busWrite_frame off v s
  rw [h]

/-- KEY, PEND and STATE are written while idle only, each at its own offsets (R53, R57). -/
theorem busWrite_data :
    ((busWrite off v s).keyReg ≠ s.keyReg → isKey (busReg off) = true ∧ s.busy = false) ∧
    ((busWrite off v s).pend ≠ s.pend → isCmd (busReg off) = true ∧ s.busy = false) ∧
    ((busWrite off v s).stateReg ≠ s.stateReg → isState (busReg off) = true ∧ s.busy = false) := by
  unfold busWrite
  cases busReg off <;> cases hb : s.busy <;> simp [isKey, isCmd, isState, hb, writeStatus_eq]

end

/-- What a write can come to: one of the named updates, or nothing (R53). -/
inductive WriteEffect where
  | accepted (v : Word)
  | dropped
  | cleared (bit3 : Bool)
  | stateWord (j : Fin 4) (v : Word)
  | keyWord (j : Fin 8) (v : Word)
  | ignored

/-- The state a write leaves. -/
def WriteEffect.apply : WriteEffect → State → State
  | .accepted v => acceptCommand v
  | .dropped => setOverrun
  | .cleared bit3 => fun s => { s with ovr := s.ovr && !bit3 }
  | .stateWord j v => writeStateWord j v
  | .keyWord j v => writeKeyWord j v
  | .ignored => id

/-- Which of them it comes to is decided by the register and BUSY alone. -/
theorem busWrite_eq_apply (off : Offset) (v : Word) (busy : Bool) :
    ∃ w : WriteEffect, ∀ s, s.busy = busy → busWrite off v s = w.apply s := by
  by_cases hd : busy = true ∧ droppedWhenBusy (busReg off) = true
  · exact ⟨.dropped, fun s hs => busWrite_dropped v s hd.2 (hs.trans hd.1)⟩
  have hidle (h : droppedWhenBusy (busReg off) = true) : busy = false := Bool.eq_false_iff.2 fun hb => hd ⟨hb, h⟩
  cases h : busReg off with
  | cmd => exact ⟨.accepted v, fun s hs => busWrite_cmd v s h (hs.trans (hidle (by rw [h]; rfl)))⟩
  | status => exact ⟨.cleared (v.getLsbD 3), fun s _ => busWrite_status v s h⟩
  | state j => exact ⟨.stateWord j v, fun s hs => busWrite_state v s h (hs.trans (hidle (by rw [h]; rfl)))⟩
  | key j => exact ⟨.keyWord j v, fun s hs => busWrite_key v s h (hs.trans (hidle (by rw [h]; rfl)))⟩
  | result => exact ⟨.ignored, fun s _ => busWrite_readOnly v s (.inl h)⟩
  | rk i => exact ⟨.ignored, fun s _ => busWrite_readOnly v s (.inr (.inl ⟨i, h⟩))⟩
  | reserved => exact ⟨.ignored, fun s _ => busWrite_readOnly v s (.inr (.inr h))⟩

/-! ### The obligations -/

/-- Settles O33: a written word is its lanes, and two words of STATE share no byte. -/
theorem stateWriteReadsBack : Obligations.StateWriteReadsBack := by
  intro off off' j j' v s hb hj hj'
  have hw (u : State) (hu : u.busy = false) := busWrite_state v u hj hu
  refine ⟨?_, ?_, fun hne => ?_⟩
  · rw [hw s hb, busRead_state _ hj]
    simp [hb, laneWord_writeLanes]
  · rw [hw s hb, hw (writeStateWord j v s) (by simpa using hb)]
    simp [writeStateWord, writeLanes_writeLanes]
  · have hval : j'.val ≠ j.val := fun h => hne (Fin.ext h)
    rw [hw s hb, busRead_state _ hj', busRead_state _ hj']
    simp [hb, laneWord_writeLanes_of_disjoint s.stateReg (base := 4 * j.val) (base' := 4 * j'.val) _ v (by omega)]

/-- Settles O34: what a read logs, and when it is unspecified. -/
theorem hostReadsChangeNoRegister : Obligations.HostReadsChangeNoRegister := fun off s =>
  ⟨fun _ => hostRead_of_some, hostRead_of_none, busRead_eq_none_iff off s⟩

end Sys2Proof.Machine
end


section
/-! PROOFS. The step relation (70_reset_and_hazards.md): whose step it is and what it does, said once; then the invariant, the
events that change each register, and the pending command, step by step. -/

namespace Sys2Proof.Machine

/-! ### One rule per turn (R276) -/

section
variable {s : State} {rest : List Turn}

theorem step_of_host_turn (ht : s.turns = .host :: rest) : step s = .next (hostTurn { s with turns := rest }) := by
  simp only [step, takeTurn, ht]

theorem step_of_core_turn (ht : s.turns = .core :: rest) : step s = complete { s with turns := rest } := by
  simp only [step, takeTurn, ht]

theorem step_of_reset_turn (ht : s.turns = .reset :: rest) : step s = .next (resetCore { s with turns := rest }) := by
  simp only [step, takeTurn, ht]

theorem step_of_no_turn_of_busy (ht : s.turns = []) (hb : s.busy = true) : step s = complete s := by
  simp only [step, takeTurn, ht, hb, if_true]

theorem step_of_no_turn_of_idle (ht : s.turns = []) (hb : s.busy = false) : step s = .next (hostTurn s) := by
  simp [step, takeTurn, ht, hb]

theorem hostTurn_nil (hp : s.hostProgram = []) : hostTurn s = s := by simp only [hostTurn, hp]

theorem complete_of_idle (hb : s.busy = false) : complete s = .next s := if_neg (by simp [hb])

theorem step_of_completesNow (h : completesNow s = true) : step s = execute { s with turns := s.turns.tail } := by
  obtain ⟨-, -, -, -, hs⟩ | ⟨hc, -⟩ | ⟨hc, -⟩ | ⟨_, _, hc, -⟩ := step_cases s
  case inl => exact hs
  all_goals cases h.symm.trans hc

theorem busy_of_completesNow (h : completesNow s = true) : s.busy = true := by
  obtain ⟨-, hb, -⟩ | ⟨hc, -⟩ | ⟨hc, -⟩ | ⟨_, _, hc, -⟩ := step_cases s
  case inl => exact hb
  all_goals cases h.symm.trans hc

theorem step_of_resetsNow (h : resetsNow s = true) : step s = .next (resetCore { s with turns := s.turns.tail }) := by
  obtain ⟨-, -, -, hr, -⟩ | ⟨-, -, -, hs⟩ | ⟨-, hr, -⟩ | ⟨_, _, -, hr, -⟩ := step_cases s
  case inr.inl => exact hs
  all_goals cases h.symm.trans hr

theorem step_of_pass (hc : completesNow s = false) (hr : resetsNow s = false) (hop : hostOpNow s = none) :
    step s = .next { s with turns := s.turns.tail } := by
  obtain ⟨hc', -⟩ | ⟨-, hr', -⟩ | ⟨-, -, -, hs⟩ | ⟨_, _, -, -, hop', -⟩ := step_cases s
  · cases hc.symm.trans hc'
  · cases hr.symm.trans hr'
  · exact hs
  · cases hop.symm.trans hop'

theorem step_of_hostOpNow {op : HostOp} (hop : hostOpNow s = some op) :
    step s = .next (hostTurn { s with turns := s.turns.tail }) := by
  obtain ⟨-, -, hop', -⟩ | ⟨-, -, hop', -⟩ | ⟨-, -, hop', -⟩ | ⟨_, _, -, -, -, -, hs⟩ := step_cases s
  case inr.inr.inr => exact hs
  all_goals cases hop.symm.trans hop'

end

/-- What a step can be: whose it is, as the planned turns tell, and the state it leaves. -/
inductive Effect (s : State) : State → Prop
  | completion (e : Ending) (hc : completesNow s = true) (hr : resetsNow s = false) (hop : hostOpNow s = none)
      (hb : s.busy = true) (hexp : ∀ w, e = .expanded w → Initializes s ∧ w = expandKey s.keyReg) :
      Effect s (e.leave { s with turns := s.turns.tail })
  | reset (hc : completesNow s = false) (hr : resetsNow s = true) (hop : hostOpNow s = none) :
      Effect s (resetCore { s with turns := s.turns.tail })
  | pass (hc : completesNow s = false) (hr : resetsNow s = false) (hop : hostOpNow s = none) :
      Effect s { s with turns := s.turns.tail }
  | write (off : Offset) (v : Word) (p : List HostOp) (hc : completesNow s = false) (hr : resetsNow s = false)
      (hop : hostOpNow s = some (.write off v)) :
      Effect s (busWrite off v { s with turns := s.turns.tail, hostProgram := p })
  | read (off : Offset) (p : List HostOp) (hc : completesNow s = false) (hr : resetsNow s = false)
      (hop : hostOpNow s = some (.read off) ∨ (hostOpNow s = some .waitIdle ∧ off = statusOffset)) :
      Effect s (hostRead off { s with turns := s.turns.tail, hostProgram := p })

/-- Every step answers a next state and is one of these. -/
theorem exists_effect (s : State) : ∃ t, step s = .next t ∧ Effect s t := by
  obtain ⟨hc, hb, hop, hr, hs⟩ | ⟨hc, hr, hop, hs⟩ | ⟨hc, hr, hop, hs⟩ | ⟨op, p, hc, hr, hop, hp, hs⟩ := step_cases s
  · obtain ⟨e, hexp, hexec⟩ := execute_ending { s with turns := s.turns.tail }
    exact ⟨_, hs.trans (hexec _ (.refl _)), .completion e hc hr hop hb hexp⟩
  · exact ⟨_, hs, .reset hc hr hop⟩
  · exact ⟨_, hs, .pass hc hr hop⟩
  · cases op with
    | write off v => exact ⟨_, hs.trans (congrArg _ (hostTurn_write hp)), .write off v p hc hr hop⟩
    | read off => exact ⟨_, hs.trans (congrArg _ (hostTurn_read hp)), .read off p hc hr (.inl hop)⟩
    | waitIdle =>
      exact ⟨_, hs.trans (congrArg _ (hostTurn_waitIdle hp)), .read statusOffset _ hc hr (.inr ⟨hop, rfl⟩)⟩

theorem effect_of_step {s t : State} (h : step s = .next t) : Effect s t := by
  obtain ⟨u, hu, heff⟩ := exists_effect s
  obtain rfl := Host.Outcome.next.inj (hu.symm.trans h)
  exact heff

/-! ### Which registers the step's host operation names -/

section
variable {s : State} {off : Offset} {v : Word} (p : BusReg → Bool)

theorem writesNow_of_none (h : hostOpNow s = none) : writesNow p s = false := by simp [writesNow, h]

theorem writesNow_of_write (h : hostOpNow s = some (.write off v)) : writesNow p s = p (busReg off) := by simp [writesNow, h]

theorem writesNow_of_read (h : hostOpNow s = some (.read off) ∨ (hostOpNow s = some .waitIdle ∧ off = statusOffset)) :
    writesNow p s = false := by
  obtain h | ⟨h, -⟩ := h <;> simp [writesNow, h]

theorem clearsOverrunNow_of_none (h : hostOpNow s = none) : clearsOverrunNow s = false := by simp [clearsOverrunNow, h]

theorem clearsOverrunNow_of_write (h : hostOpNow s = some (.write off v)) :
    clearsOverrunNow s = (isStatus (busReg off) && v.getLsbD 3) := by simp [clearsOverrunNow, h]

theorem clearsOverrunNow_of_read (h : hostOpNow s = some (.read off) ∨ (hostOpNow s = some .waitIdle ∧ off = statusOffset)) :
    clearsOverrunNow s = false := by
  obtain h | ⟨h, -⟩ := h <;> simp [clearsOverrunNow, h]

end

/-! ### The registers after a step -/

/-- What a step that is neither a completion nor a reset can do to the data registers: the context, RESULT and ERR are the core's
own, and KEY, PEND and STATE change by a host write while idle. -/
structure KeptByHost (s t : State) : Prop where
  keyValid : t.keyValid = s.keyValid
  rk : t.rk = s.rk
  result : t.result = s.result
  err : t.err = s.err
  keyReg : t.keyReg ≠ s.keyReg → writesNow isKey s = true ∧ s.busy = false
  pend : t.pend ≠ s.pend → writesNow isCmd s = true ∧ s.busy = false
  stateReg : t.stateReg ≠ s.stateReg → writesNow isState s = true ∧ s.busy = false

theorem keptByHost_write {s : State} {off : Offset} {v : Word} (hop : hostOpNow s = some (.write off v)) (p : List HostOp) :
    KeptByHost s (busWrite off v { s with turns := s.turns.tail, hostProgram := p }) := by
  obtain ⟨hkey, hpend, hst⟩ := busWrite_data off v { s with turns := s.turns.tail, hostProgram := p }
  simp only [← writesNow_of_write _ hop] at hkey hpend hst
  obtain ⟨_, _, _, _, _, hw⟩ := busWrite_frame off v { s with turns := s.turns.tail, hostProgram := p }
  rw [hw] at hkey hpend hst ⊢
  exact ⟨rfl, rfl, rfl, rfl, hkey, hpend, hst⟩

/-- The host's side holds no data register. -/
theorem keptByHost_hostSide (s : State) (p : List HostOp) (ts : List Turn) (log : List (Offset × Word)) (n : Nat) :
    KeptByHost s { s with hostProgram := p, turns := ts, readLog := log, freeCount := n } :=
  ⟨rfl, rfl, rfl, rfl, fun h => absurd rfl h, fun h => absurd rfl h, fun h => absurd rfl h⟩

namespace Effect
variable {s t : State} (h : Effect s t)
include h

/-- BUSY falls by a completion or reset, and rises by a write to CMD (R21). -/
theorem busy_eq : t.busy = (!(completesNow s || resetsNow s) && (s.busy || writesNow isCmd s)) := by
  cases h with
  | completion e hc hr hop hb hexp => simp [hc]
  | reset hc hr hop => simp [hr]
  | pass hc hr hop => simp [hc, hr, writesNow_of_none _ hop]
  | write off v p hc hr hop => simp [hc, hr, writesNow_of_write _ hop, busWrite_busy]
  | read off p hc hr hop => simp [hc, hr, writesNow_of_read _ hop]

/-- OVR falls by reset or the one write to STATUS that clears it, and rises by a dropped write (R23). -/
theorem ovr_eq : t.ovr = (!resetsNow s &&
    if s.busy && writesNow droppedWhenBusy s then true else s.ovr && !clearsOverrunNow s) := by
  cases h with
  | completion e hc hr hop hb hexp => simp [hr, writesNow_of_none _ hop, clearsOverrunNow_of_none hop]
  | reset hc hr hop => simp [hr]
  | pass hc hr hop => simp [hr, writesNow_of_none _ hop, clearsOverrunNow_of_none hop]
  | write off v p hc hr hop => simp [hr, writesNow_of_write _ hop, clearsOverrunNow_of_write hop, busWrite_ovr]
  | read off p hc hr hop => simp [hr, writesNow_of_read _ hop, clearsOverrunNow_of_read hop]

/-- For the data registers a step is a completion, the reset, or one that leaves them to the host. -/
theorem data_cases :
    (completesNow s = true ∧ ∃ e : Ending, (∀ w, e = .expanded w → Initializes s ∧ w = expandKey s.keyReg) ∧
      t = e.leave { s with turns := s.turns.tail }) ∨
    (resetsNow s = true ∧ t = resetCore { s with turns := s.turns.tail }) ∨ KeptByHost s t := by
  cases h with
  | completion e hc hr hop hb hexp => exact .inl ⟨hc, e, hexp, rfl⟩
  | reset hc hr hop => exact .inr (.inl ⟨hr, rfl⟩)
  | pass => exact .inr (.inr (keptByHost_hostSide ..))
  | write off v p hc hr hop => exact .inr (.inr (keptByHost_write hop p))
  | read off p =>
    obtain ⟨_, _, hread⟩ := hostRead_frame off { s with turns := s.turns.tail, hostProgram := p }
    rw [hread]
    exact .inr (.inr (keptByHost_hostSide ..))

/-- The context comes from a completing INIT with KSZ = 0b10, goes by reset, and is otherwise as before (R22, R26, R32). -/
theorem context : (completesNow s = true ∧ Initializes s ∧ t.keyValid = true ∧ t.rk = expandKey s.keyReg) ∨
    (resetsNow s = true ∧ t.keyValid = false) ∨ (t.keyValid = s.keyValid ∧ t.rk = s.rk) := by
  obtain ⟨hc, e, hexp, rfl⟩ | ⟨hr, rfl⟩ | hkept := h.data_cases
  · obtain ⟨w, he, hrk, hkv⟩ | ⟨hrk, hkv⟩ := e.leave_context { s with turns := s.turns.tail }
    · obtain ⟨hinit, rfl⟩ := hexp w he
      exact .inl ⟨hc, hinit, hkv, hrk⟩
    · exact .inr (.inr ⟨hkv, hrk⟩)
  · exact .inr (.inl ⟨hr, rfl⟩)
  · exact .inr (.inr ⟨hkept.keyValid, hkept.rk⟩)

/-- ERR is a code of R230 that a completion or reset wrote, or as before. -/
theorem err_cases : (legalErr t.err = true ∧ (completesNow s = true ∨ resetsNow s = true)) ∨ t.err = s.err := by
  obtain ⟨hc, e, -, rfl⟩ | ⟨hr, rfl⟩ | hkept := h.data_cases
  · exact .inl ⟨e.legalErr_leave _, .inl hc⟩
  · exact .inl ⟨rfl, .inr hr⟩
  · exact .inr hkept.err

/-- While BUSY = 1 the host can change OVR and its own side only (R57). -/
theorem of_busy (hb : s.busy = true) (hc : completesNow s = false) (hr : resetsNow s = false) : ∃ ovr p log n,
    t = { s with ovr := ovr, hostProgram := p, turns := s.turns.tail, readLog := log, freeCount := n } := by
  cases h with
  | completion e hc' => cases hc.symm.trans hc'
  | reset hc' hr' => cases hr.symm.trans hr'
  | pass => exact ⟨_, _, _, _, rfl⟩
  | write off v p =>
    obtain ⟨ovr, hw⟩ := busWrite_of_busy off v (s := { s with turns := s.turns.tail, hostProgram := p }) hb
    exact ⟨ovr, _, _, _, hw⟩
  | read off p =>
    obtain ⟨_, _, hread⟩ := hostRead_frame off { s with turns := s.turns.tail, hostProgram := p }
    exact ⟨_, _, _, _, hread⟩

end Effect

/-- A run takes its first step. -/
theorem run_succ {s t : State} (h : step s = .next t) (n : Nat) : Host.Core.run core (n + 1) s = Host.Core.run core n t := by
  have hcore : core.step s = .next t := h
  simp only [Host.Core.run, hcore]

/-! ### Which steps exclude each other -/

section
variable {s : State}

theorem resetsNow_of_writesNow {p : BusReg → Bool} (h : writesNow p s = true) : resetsNow s = false := by
  obtain ⟨-, -, -, hr, -⟩ | ⟨-, -, hop, -⟩ | ⟨-, hr, -⟩ | ⟨_, _, -, hr, -⟩ := step_cases s
  case inr.inl => cases h.symm.trans (writesNow_of_none p hop)
  all_goals exact hr

/-- A write to STATUS is never dropped (R57). -/
theorem writesNow_dropped_of_clearsOverrunNow (h : clearsOverrunNow s = true) : writesNow droppedWhenBusy s = false := by
  cases hop : hostOpNow s with
  | none => exact writesNow_of_none _ hop
  | some op =>
    cases op with
    | write off v =>
      rw [clearsOverrunNow_of_write hop] at h
      rw [writesNow_of_write _ hop]
      cases hreg : busReg off <;> simp_all [isStatus, droppedWhenBusy, isCmd, isState, isKey]
    | read off => exact writesNow_of_read _ (.inl hop)
    | waitIdle => exact writesNow_of_read _ (.inr ⟨hop, rfl⟩)

/-- A host that keeps the busy rule has no write dropped (R57, R272). -/
theorem not_dropped_of_keepsBusyRule (h : ∀ op, hostOpNow s = some op → keepsBusyRule op s = true) :
    (s.busy && writesNow droppedWhenBusy s) = false := by
  cases hop : hostOpNow s with
  | none => simp [writesNow_of_none _ hop]
  | some op =>
    have hkeeps := h op hop
    cases op with
    | write off v =>
      rw [writesNow_of_write _ hop]
      simpa [keepsBusyRule, or_iff_not_imp_left] using hkeeps
    | read off => simp [writesNow_of_read _ (.inl hop)]
    | waitIdle => simp [writesNow_of_read _ (.inr ⟨hop, rfl⟩)]

end

/-! ### The obligations -/

/-- Settles O40: ERR is a code just written or as before, and the context a fresh expansion, gone, or as before. -/
theorem stepKeepsInvariant : Obligations.StepKeepsInvariant := by
  rintro s t ⟨herr, hctx⟩ hstep
  have heff := effect_of_step hstep
  constructor
  · obtain ⟨hlegal, -⟩ | hsame := heff.err_cases
    · exact hlegal
    · rwa [hsame]
  · intro hkv
    obtain ⟨-, -, -, hrk⟩ | ⟨-, hgone⟩ | ⟨hsame, hrk⟩ := heff.context
    · exact ⟨_, hrk⟩
    · cases hkv.symm.trans hgone
    · rw [hrk]
      exact hctx (hsame ▸ hkv)

/-- Settles O49: what the host can change while BUSY = 1 is not among these registers. -/
theorem pendingCommandIsKeptByEveryOtherStep : Obligations.PendingCommandIsKeptByEveryOtherStep := by
  intro s t hb hc hr hstep
  obtain ⟨_, _, _, _, rfl⟩ := (effect_of_step hstep).of_busy hb hc hr
  exact ⟨hb, rfl, rfl, rfl, rfl, rfl, rfl, rfl⟩

/-- Settles O36: the rule of the turn, and what the host's operation is. -/
theorem stepRelation : Obligations.StepRelation := by
  refine ⟨fun s => ?total, fun s rest => step_of_reset_turn,
    fun s rest ht => ⟨fun _ => step_of_core_turn ht, fun hb => (step_of_core_turn ht).trans (complete_of_idle hb)⟩,
    fun s rest off v p ht hp => ?write, fun s rest off p ht hp => ?read, fun s rest p ht hp => ?wait,
    fun s rest ht hp => ?noProgram, fun s => step_of_no_turn_of_busy, fun s ht hb => ?defaultHost⟩
  case total =>
    obtain ⟨t, ht, -⟩ := exists_effect s
    exact ⟨t, ht⟩
  case write => rw [step_of_host_turn ht, hostTurn_write (s := { s with turns := rest }) hp]
  case read => rw [step_of_host_turn ht, hostTurn_read (s := { s with turns := rest }) hp]
  case wait => rw [step_of_host_turn ht, hostTurn_waitIdle (s := { s with turns := rest }) hp]
  case noProgram => rw [step_of_host_turn ht, hostTurn_nil (s := { s with turns := rest }) hp]
  case defaultHost =>
    have hs : { s with turns := [] } = s := by rw [← ht]
    rw [step_of_no_turn_of_idle ht hb, step_of_host_turn (s := { s with turns := [.host] }) rfl, hs]

/-- Settles O35: the completion runs what PEND decodes to. -/
theorem stepRunsThePendingCommand : Obligations.StepRunsThePendingCommand := by
  refine fun s i => ⟨fun hb hd ht => ?_, fun rest hb hd ht => ?_, fun cw hd => ?_⟩
  · rw [step_of_no_turn_of_busy ht hb, complete_of_decode hb hd]
  · rw [step_of_core_turn ht, complete_of_decode (s := { s with turns := rest }) hb hd]
  · have hcw : BitVec.ofNat 32 (cw.toNat % 2 ^ 32) = cw := by
      rw [Nat.mod_eq_of_lt cw.isLt, BitVec.ofNat_toNat, BitVec.setWidth_eq]
    rw [State.withFetchWord, hcw, step_of_core_turn rfl]
    exact complete_of_decode rfl hd

/-- Settles O37: by induction on the planned turns, every turn of the host before the end keeps the pending command. -/
theorem pendingCommandCompletesUndisturbed : Obligations.PendingCommandCompletesUndisturbed := by
  intro s hb
  induction hturns : s.turns generalizing s with
  | nil =>
    have hc : completesNow s = true := by simp [completesNow, hturns, hb]
    exact ⟨0, s, le_rfl, rfl, hb, rfl, rfl, rfl, rfl, rfl, rfl, rfl, .inl ⟨hc, step_of_completesNow hc⟩⟩
  | cons turn rest ih =>
    by_cases hend : completesNow s = true ∨ resetsNow s = true
    · refine ⟨0, s, Nat.zero_le _, rfl, hb, rfl, rfl, rfl, rfl, rfl, rfl, rfl, ?_⟩
      exact hend.imp (fun hc => ⟨hc, step_of_completesNow hc⟩) (fun hr => ⟨hr, step_of_resetsNow hr⟩)
    · simp only [not_or, Bool.not_eq_true] at hend
      obtain ⟨hc, hr⟩ := hend
      obtain ⟨t, hstep, heff⟩ := exists_effect s
      obtain ⟨ovr, p, log, k, rfl⟩ := heff.of_busy hb hc hr
      obtain ⟨n, u, hn, hrun, hu⟩ :=
        ih { s with ovr := ovr, hostProgram := p, turns := s.turns.tail, readLog := log, freeCount := k } hb
          (congrArg List.tail hturns)
      exact ⟨n + 1, u, Nat.succ_le_succ hn, (run_succ hstep n).trans hrun, hu⟩

/-- Settles O38: the reset state, in which BUSY = 0. -/
theorem resetFromAnyState : Obligations.ResetFromAnyState := fun s rest ht =>
  ⟨_, step_of_reset_turn ht, rfl, rfl, rfl, rfl, rfl, fun k => by simp [State.reset], fun k => by simp [State.reset],
    fun v => busWrite_cmd v _ rfl rfl⟩

/-- Settles O39: ERR = 0x0 and KEY_VALID = 0. -/
theorem invariantAtReset : Obligations.InvariantAtReset := ⟨rfl, nofun⟩

/-- Settles O41: BUSY and OVR have an equation each, and the context and ERR have the events that change them. -/
theorem statusFieldsChangeOnlySo : Obligations.StatusFieldsChangeOnlySo := by
  intro s t hstep
  have heff := effect_of_step hstep
  have hbusy := heff.busy_eq
  have hovr := heff.ovr_eq
  refine ⟨fun h h' => ?busyRises, fun h h' => ?busyFalls, fun h => ?busyEnds, fun h h' => ?keyValidRises,
    fun h h' => ?keyValidFalls, fun h h' => ?ovrRises, fun h h' => ?dropped, fun h h' => ?ovrFalls, fun h => ?cleared,
    fun h => (heff.err_cases.resolve_right h).2⟩
  case busyRises => simp_all
  case busyFalls => simpa [h, h', or_iff_not_imp_left] using hbusy
  case busyEnds => obtain h | h := h <;> simp [hbusy, h]
  case keyValidRises =>
    obtain ⟨hc, hinit, -⟩ | ⟨-, hgone⟩ | ⟨hsame, -⟩ := heff.context
    · exact ⟨hc, hinit⟩
    · cases h'.symm.trans hgone
    · cases h'.symm.trans (hsame.trans h)
  case keyValidFalls =>
    obtain ⟨-, -, hkv, -⟩ | ⟨hr, -⟩ | ⟨hsame, -⟩ := heff.context
    · cases h'.symm.trans hkv
    · exact hr
    · cases h'.symm.trans (hsame.trans h)
  case ovrRises => simp_all
  case dropped => simp [hovr, h, h', resetsNow_of_writesNow h']
  case ovrFalls =>
    rw [or_iff_not_imp_right]
    simp_all
  case cleared => simp [hovr, h, writesNow_dropped_of_clearsOverrunNow h]

/-- Settles O42: a completion writes no KEY and no PEND, and RK only as INIT does; the host writes its own three registers. -/
theorem dataRegistersChangeOnlySo : Obligations.DataRegistersChangeOnlySo := by
  intro s t hstep
  obtain ⟨hc, e, hexp, rfl⟩ | ⟨hr, -⟩ | hkept := (effect_of_step hstep).data_cases
  · refine ⟨absurd (e.leave_keyReg _), absurd (e.leave_pend _), fun hne => .inl ⟨hc, ?_⟩, fun _ => .inl hc,
      fun _ => .inl hc⟩
    obtain ⟨w, he, -⟩ | ⟨hrk, -⟩ := e.leave_context { s with turns := s.turns.tail }
    · exact (hexp w he).1
    · exact absurd hrk hne
  · exact ⟨fun _ => .inr hr, fun _ => .inr hr, fun _ => .inr hr, fun _ => .inr hr, fun _ => .inr (.inr hr)⟩
  · exact ⟨fun h => .inl (hkept.keyReg h), fun h => .inl (hkept.pend h), absurd hkept.rk, absurd hkept.result,
      fun h => .inr (.inl (hkept.stateReg h))⟩

/-- Settles O43: of the steps only a read that the busy rule forbids draws a free value, and only a dropped write sets OVR. -/
theorem safeStepSeesNoHazard : Obligations.SafeStepSeesNoHazard := by
  rintro s t ⟨-, hkeeps⟩ hstep
  have heff := effect_of_step hstep
  constructor
  · cases heff with
    | completion e => exact e.leave_freeCount _
    | reset | pass => rfl
    | write => exact busWrite_freeCount ..
    | read off p hc hr hop =>
      refine freeCount_hostRead (s := { s with turns := s.turns.tail, hostProgram := p }) fun hb => ?_
      obtain hop | ⟨-, rfl⟩ := hop
      · simpa [keepsBusyRule, show s.busy = true from hb] using hkeeps _ hop
      · rfl
  · intro hovr
    simp [heff.ovr_eq, hovr, not_dropped_of_keepsBusyRule hkeeps]

end Sys2Proof.Machine
end


section
/-! PROOFS. Two runs side by side (10_state.md section 3, 70_reset_and_hazards.md section 4): a relation between states that
accesses, resets and completions keep is kept by every step. Then two such relations: what a host cannot tell apart. -/

namespace Sys2Proof.Machine

/-! ### Relations that the host and the reset input keep -/

/-- Related states have the same turn and host operation next, and accesses and resets take them to related states. -/
structure KeptByAccesses (R : State → State → Prop) : Prop where
  schedule {s t : State} : R s t → t.busy = s.busy ∧ t.hostProgram = s.hostProgram ∧ t.turns = s.turns
  place {s t : State} : R s t → ∀ p ts, R { s with hostProgram := p, turns := ts } { t with hostProgram := p, turns := ts }
  write {s t : State} : R s t → ∀ off v, R (busWrite off v s) (busWrite off v t)
  read {s t : State} : R s t → ∀ off, R (hostRead off s) (hostRead off t)
  reset {s t : State} : R s t → R (resetCore s) (resetCore t)

section
variable {R : State → State → Prop} {s t : State}

theorem KeptByAccesses.kept_by_hostTurn (hR : KeptByAccesses R) (h : R s t) : R (hostTurn s) (hostTurn t) := by
  obtain ⟨hbusy, hprog, hturns⟩ := hR.schedule h
  have hplace {p q : List HostOp} (hpq : q = p) : R { s with hostProgram := p } { t with hostProgram := q } := by
    simpa [hturns, hpq] using hR.place h p s.turns
  cases hp : s.hostProgram with
  | nil => simpa [hostTurn_nil hp, hostTurn_nil (hprog.trans hp)] using h
  | cons op rest =>
    have hp' := hprog.trans hp
    cases op with
    | write off v =>
      rw [hostTurn_write hp, hostTurn_write hp']
      exact hR.write (hplace rfl) off v
    | read off =>
      rw [hostTurn_read hp, hostTurn_read hp']
      exact hR.read (hplace rfl) off
    | waitIdle =>
      rw [hostTurn_waitIdle hp, hostTurn_waitIdle hp']
      exact hR.read (hplace (by rw [hbusy])) _

/-- Such a relation is kept by every step whose completions keep it. -/
theorem KeptByAccesses.kept_by_step (hR : KeptByAccesses R) (h : R s t)
    (hcomplete : completesNow s = true → ∃ s' t', execute { s with turns := s.turns.tail } = .next s' ∧
      execute { t with turns := t.turns.tail } = .next t' ∧ R s' t') :
    ∃ s' t', step s = .next s' ∧ step t = .next t' ∧ R s' t' := by
  obtain ⟨hbusy, hprog, hturns⟩ := hR.schedule h
  have htaken : R { s with turns := s.turns.tail } { t with turns := t.turns.tail } := by
    simpa [hprog, hturns] using hR.place h s.hostProgram s.turns.tail
  have hc : completesNow t = completesNow s := by simp only [completesNow, hturns, hbusy]
  have hr : resetsNow t = resetsNow s := by simp only [resetsNow, hturns]
  have hop : hostOpNow t = hostOpNow s := by simp only [hostOpNow, hturns, hbusy, hprog]
  obtain ⟨hs, -, -, -, hstep⟩ | ⟨-, hs, -, hstep⟩ | ⟨hsc, hsr, hs, hstep⟩ | ⟨op, rest, -, -, hs, -, hstep⟩ :=
    step_cases s
  · obtain ⟨s', t', hs', ht', hR'⟩ := hcomplete hs
    exact ⟨s', t', hstep.trans hs', (step_of_completesNow (hc.trans hs)).trans ht', hR'⟩
  · exact ⟨_, _, hstep, step_of_resetsNow (hr.trans hs), hR.reset htaken⟩
  · exact ⟨_, _, hstep, step_of_pass (hc.trans hsc) (hr.trans hsr) (hop.trans hs), htaken⟩
  · exact ⟨_, _, hstep, step_of_hostOpNow (hop.trans hs), hR.kept_by_hostTurn htaken⟩

end

/-! ### States that differ in KEY alone -/

/-- KEY is the one field in which `s` and `t` may differ. -/
def DifferInKey (s t : State) : Prop := ∃ k, t = { s with keyReg := k }

theorem differInKey_keptByAccesses : KeptByAccesses DifferInKey where
  schedule := by
    rintro s _ ⟨k, rfl⟩
    exact ⟨rfl, rfl, rfl⟩
  place := by
    rintro s _ ⟨k, rfl⟩ p ts
    exact ⟨k, rfl⟩
  write := by
    rintro s _ ⟨k, rfl⟩ off v
    obtain ⟨w, hw⟩ := busWrite_eq_apply off v s.busy
    rw [hw s rfl, hw { s with keyReg := k } rfl]
    cases w <;> exact ⟨_, rfl⟩
  read := by
    rintro s _ ⟨k, rfl⟩ off
    have hread : busRead off { s with keyReg := k } = busRead off s := rfl
    refine ⟨k, ?_⟩
    rw [hostRead, hread, hostRead]
    cases busRead off s <;> rfl
  reset := by
    rintro s _ ⟨k, rfl⟩
    exact ⟨_, rfl⟩

/-! ### States that differ in RK while Uninitialized and in PEND while idle -/

/-- The same with the two fields as parameters. -/
theorem indistinguishable_iff {s t : State} : Indistinguishable s t ↔ ∃ w c, t = { s with rk := w, pend := c } ∧
    (s.keyValid = true → w = s.rk) ∧ (s.busy = true → c = s.pend) := by
  constructor
  · rintro ⟨h, hw, hc⟩
    exact ⟨_, _, h, hw, hc⟩
  · rintro ⟨w, c, rfl, hw, hc⟩
    exact ⟨rfl, hw, hc⟩

theorem indistinguishable_keptByAccesses : KeptByAccesses Indistinguishable where
  schedule := by
    simp only [indistinguishable_iff]
    rintro s _ ⟨w, c, rfl, -, -⟩
    exact ⟨rfl, rfl, rfl⟩
  place := by
    simp only [indistinguishable_iff]
    rintro s _ ⟨w, c, rfl, hw, hc⟩ p ts
    exact ⟨w, c, rfl, hw, hc⟩
  write := by
    simp only [indistinguishable_iff]
    rintro s _ ⟨w, c, rfl, hw, hc⟩ off v
    obtain ⟨e, he⟩ := busWrite_eq_apply off v s.busy
    rw [he s rfl, he { s with rk := w, pend := c } rfl]
    cases e with
    | accepted v => exact ⟨w, v, rfl, hw, fun _ => rfl⟩
    | dropped | cleared | ignored => exact ⟨w, c, rfl, hw, hc⟩
    | stateWord j v | keyWord j v =>
      exact ⟨w, c, rfl, by simpa [WriteEffect.apply] using hw, by simpa [WriteEffect.apply] using hc⟩
  read := by
    simp only [indistinguishable_iff]
    rintro s _ ⟨w, c, rfl, hw, hc⟩ off
    have hread : busRead off { s with rk := w, pend := c } = busRead off s := by
      unfold busRead
      cases busReg off with
      | rk i =>
        cases hk : s.keyValid
        · rfl
        · rw [hw hk]
      | _ => rfl
    rw [hostRead, hread, hostRead]
    cases busRead off s <;> exact ⟨w, c, rfl, hw, hc⟩
  reset := by
    simp only [indistinguishable_iff]
    rintro s _ ⟨w, c, rfl, -, -⟩
    exact ⟨_, _, rfl, fun _ => rfl, fun _ => rfl⟩

/-! ### The obligations -/

/-- Settles O45: only INIT with KSZ = 0b10 has KEY among its operands. -/
theorem keyShowsOnlyThroughInit : Obligations.KeyShowsOnlyThroughInit := by
  intro s k hno
  obtain ⟨t, _, ht, ht', k', rfl⟩ := differInKey_keptByAccesses.kept_by_step (s := s) ⟨k, rfl⟩ fun hc => by
    obtain ⟨e, -, hexec⟩ := execute_ending { s with turns := s.turns.tail }
    refine ⟨_, _, hexec _ (.refl _), hexec { s with keyReg := k, turns := s.turns.tail }
      ⟨rfl, rfl, rfl, fun _ => rfl, fun hinit => absurd ⟨hc, hinit⟩ hno⟩, k, ?_⟩
    cases e <;> rfl
  exact ⟨t, k', ht, ht'⟩

/-- Settles O46: a completion reads PEND, which is the same while BUSY = 1, and RK only under a context. -/
theorem resetGarbageIsUnobservable : Obligations.ResetGarbageIsUnobservable := by
  intro s t h
  obtain ⟨s', t', hs, ht, h'⟩ := indistinguishable_keptByAccesses.kept_by_step h fun hc => by
    obtain ⟨w, c, rfl, hw, hpend⟩ := indistinguishable_iff.1 h
    have hb : s.busy = true := busy_of_completesNow hc
    obtain ⟨e, -, hexec⟩ := execute_ending { s with turns := s.turns.tail }
    refine ⟨_, _, hexec _ (.refl _), hexec { s with rk := w, pend := c, turns := s.turns.tail }
      ⟨hpend hb, rfl, rfl, hw, fun _ => rfl⟩, indistinguishable_iff.2 ?_⟩
    cases e with
    | expanded u => exact ⟨u, c, rfl, fun _ => rfl, nofun⟩
    | raised | byte | block => exact ⟨w, c, rfl, hw, nofun⟩
  exact ⟨s', t', hs, ht, h', by rw [h'.1]⟩

end Sys2Proof.Machine
end


section
/-! PROOFS. Runs of several steps (20_memory.md section 5, 30_encoding.md section 4): an access that sees nothing of a completion
commutes with it; and the host sequences load_state, load_key and run from an idle core. -/

namespace Sys2Proof.Machine

/-- A run of two steps. -/
theorem run_two {s t u : State} (hs : step s = .next t) (ht : step t = .next u) : Host.Core.run core 2 s = .next u := by
  rw [run_succ hs, run_succ ht]
  rfl

/-! ### Accesses that commute with the completion (R64) -/

/-- An access that sees nothing of a completion: a write that is dropped in no state, or a read that is 0 in all of them. -/
def SeesNoCompletion (op : HostOp) : Prop :=
  (∃ off v, op = .write off v ∧ droppedWhenBusy (busReg off) = false) ∨
    ∃ off, op = .read off ∧ (busReg off = .cmd ∨ busReg off = .reserved ∨ ∃ j, busReg off = .key j)

/-- Such an access does the same to OVR and the read log in every state, and touches nothing else but the host's program. -/
theorem hostTurn_of_seesNoCompletion {op : HostOp} (h : SeesNoCompletion op) (p : List HostOp) :
    ∃ (f : Bool → Bool) (log : List (Offset × Word)), ∀ s : State, s.hostProgram = op :: p →
      hostTurn s = { s with ovr := f s.ovr, readLog := log ++ s.readLog, hostProgram := p } := by
  obtain ⟨off, v, rfl, hd⟩ | ⟨off, rfl, hreg⟩ := h
  · cases hr : busReg off with
    | status => exact ⟨(· && !v.getLsbD 3), [], fun s hp => (hostTurn_write hp).trans (busWrite_status v _ hr)⟩
    | result => exact ⟨id, [], fun s hp => (hostTurn_write hp).trans (busWrite_readOnly v _ (.inl hr))⟩
    | rk i => exact ⟨id, [], fun s hp => (hostTurn_write hp).trans (busWrite_readOnly v _ (.inr (.inl ⟨i, hr⟩)))⟩
    | reserved => exact ⟨id, [], fun s hp => (hostTurn_write hp).trans (busWrite_readOnly v _ (.inr (.inr hr)))⟩
    | cmd | state | key => simp [hr, droppedWhenBusy, isCmd, isState, isKey] at hd
  · have hzero (s : State) : busRead off s = some 0 := by
      obtain hr | hr | ⟨j, hr⟩ := hreg
      · exact busRead_cmd s hr
      · exact busRead_reserved s hr
      · exact busRead_key s hr
    exact ⟨id, [(off, 0)], fun s hp => (hostTurn_read hp).trans (hostRead_of_some (hzero _))⟩

/-- Settles O44: the access and the ending write different fields, and neither reads what the other writes. -/
theorem hazardFreeAccessCommutes : Obligations.HazardFreeAccessCommutes := by
  intro s op p hb hp hop
  obtain ⟨f, log, hturn⟩ := hostTurn_of_seesNoCompletion hop p
  obtain ⟨e, -, hexec⟩ := execute_ending s
  have hcomplete (u : State) (hbusy : u.busy = true) (hu : SameCompletion s u) : complete u = .next (e.leave u) :=
    (if_pos hbusy).trans (hexec u hu)
  have hcoreFirst : step { s with turns := [.core, .host] } = .next (e.leave { s with turns := [.host] }) :=
    (step_of_core_turn rfl).trans (hcomplete _ hb (.of_registers rfl rfl rfl rfl rfl))
  have hhostSecond := (step_of_host_turn (rest := []) (e.leave_turns { s with turns := [.host] })).trans
    (congrArg _ (hturn _ ((e.leave_hostProgram _).trans hp)))
  have hhostFirst := (step_of_host_turn (s := { s with turns := [.host, .core] }) rfl).trans
    (congrArg _ (hturn { s with turns := [.core] } hp))
  have hcoreSecond := (step_of_core_turn
    (s := { s with turns := [.core], ovr := f s.ovr, readLog := log ++ s.readLog, hostProgram := p }) rfl).trans
    (hcomplete _ hb (.of_registers rfl rfl rfl rfl rfl))
  refine ⟨_, run_two hhostFirst hcoreSecond, (run_two hcoreFirst hhostSecond).trans ?_⟩
  cases e <;> rfl

/-! ### Loading a register word by word (R92) -/

section Load
variable {n m : Nat} (hn : n = 4 * m) (B : Vector Byte n)

/-- Word `j` of the array as the host writes it. -/
def wordAt (j : Fin m) : Word := laneWord B (4 * j.val) (by omega)

/-- The array after the words `js` of `B` are written over `A` one by one. -/
def copyWords (js : List (Fin m)) (A : Vector Byte n) : Vector Byte n :=
  js.foldl (fun A j => writeLanes A (4 * j.val) (wordAt hn B j)) A

theorem getElem_writeLanes_wordAt (A : Vector Byte n) (j : Fin m) (i : Nat) (hi : i < n) :
    (writeLanes A (4 * j.val) (wordAt hn B j))[i] = if i / 4 = j.val then B[i] else A[i] := by
  have hword : (4 * j.val ≤ i ∧ i < 4 * j.val + 4) ↔ i / 4 = j.val := by omega
  simp only [writeLanes_getElem, hword]
  split
  · rw [wordAt, lane_laneWord _ _ _ _ (by omega)]
    congr 1
    omega
  · rfl

theorem getElem_copyWords (js : List (Fin m)) (A : Vector Byte n) (i : Nat) (hi : i < n) :
    (copyWords hn B js A)[i] = if i / 4 ∈ js.map Fin.val then B[i] else A[i] := by
  induction js generalizing A with
  | nil => rfl
  | cons j js ih =>
    have hcons : copyWords hn B (j :: js) A = copyWords hn B js (writeLanes A (4 * j.val) (wordAt hn B j)) := rfl
    rw [hcons, ih, getElem_writeLanes_wordAt]
    grind

/-- All words written, nothing of the old array is left. -/
theorem copyWords_finRange (A : Vector Byte n) : copyWords hn B (List.finRange m) A = B := by
  ext i hi
  rw [getElem_copyWords, if_pos]
  exact List.mem_map.2 ⟨⟨i / 4, by omega⟩, List.mem_finRange _, rfl⟩

/-- A program of writes, each of which takes one step, writes the words of its list. -/
theorem run_writes {off : Fin m → Offset} {loaded : Vector Byte n → List HostOp → State}
    (hstep : ∀ A j v p, step (loaded A (.write (off j) v :: p)) = .next (loaded (writeLanes A (4 * j.val) v) p))
    (js : List (Fin m)) (A : Vector Byte n) (p : List HostOp) :
    Host.Core.run core js.length (loaded A (js.map (fun j => .write (off j) (wordAt hn B j)) ++ p)) =
      .next (loaded (copyWords hn B js A) p) := by
  induction js generalizing A with
  | nil => rfl
  | cons j js ih =>
    rw [List.length_cons, List.map_cons, List.cons_append, run_succ (hstep A j _ _), ih]
    rfl

end Load

theorem hostRead_status (s : State) : hostRead 0x004 s = { s with readLog := (0x004, statusWord s) :: s.readLog } :=
  hostRead_of_some (busRead_status s rfl)

/-! ### With no turn planned an idle core lets the host go on (R276). -/

section Idle
variable {s : State} (hb : s.busy = false)
include hb

theorem step_write_of_idle (ht : s.turns = []) (off : Offset) (v : Word) (p : List HostOp) :
    step { s with hostProgram := .write off v :: p } = .next (busWrite off v { s with hostProgram := p }) :=
  (step_of_no_turn_of_idle (s := { s with hostProgram := .write off v :: p }) ht hb).trans (congrArg _ (hostTurn_write rfl))

theorem busWrite_stateOffset (j : Fin 4) (v : Word) : busWrite (BitVec.ofNat 9 (0x010 + 4 * j.val)) v s =
    { s with stateReg := writeLanes s.stateReg (4 * j.val) v } := by
  have hreg : ∀ j : Fin 4, busReg (BitVec.ofNat 9 (0x010 + 4 * j.val)) = .state j := by decide
  rw [busWrite_state v s (hreg j) hb, writeStateWord]

theorem busWrite_keyOffset (j : Fin 8) (v : Word) : busWrite (BitVec.ofNat 9 (0x020 + 4 * j.val)) v s =
    { s with keyReg := writeLanes s.keyReg (4 * j.val) v } := by
  have hreg : ∀ j : Fin 8, busReg (BitVec.ofNat 9 (0x020 + 4 * j.val)) = .key j := by decide
  rw [busWrite_key v s (hreg j) hb, writeKeyWord]

/-- A command is issued (R54, R91). -/
theorem step_cmd_of_idle (ht : s.turns = []) (cw : Word) (p : List HostOp) :
    step { s with hostProgram := .write 0x000 cw :: p } = .next { s with hostProgram := p, pend := cw, busy := true } :=
  (step_write_of_idle hb ht 0x000 cw p).trans (congrArg _ (busWrite_cmd cw { s with hostProgram := p } rfl hb))

/-- STATUS shows BUSY = 0, so one polling read ends the wait (R92). -/
theorem step_wait_of_idle (ht : s.turns = []) (p : List HostOp) : step { s with hostProgram := .waitIdle :: p } =
    .next { s with hostProgram := p, readLog := (0x004, statusWord s) :: s.readLog } := by
  rw [step_of_no_turn_of_idle (s := { s with hostProgram := .waitIdle :: p }) ht hb,
    hostTurn_waitIdle (s := { s with hostProgram := .waitIdle :: p }) rfl,
    if_neg (show ¬s.busy = true by simp [hb])]
  exact congrArg _ (hostRead_status { s with hostProgram := p })

theorem step_readStatus_of_idle (ht : s.turns = []) (p : List HostOp) : step { s with hostProgram := .read 0x004 :: p } =
    .next { s with hostProgram := p, readLog := (0x004, statusWord s) :: s.readLog } := by
  rw [step_of_no_turn_of_idle (s := { s with hostProgram := .read 0x004 :: p }) ht hb,
    hostTurn_read (s := { s with hostProgram := .read 0x004 :: p }) rfl]
  exact congrArg _ (hostRead_status { s with hostProgram := p })

/-- The host waits for nothing and reads STATUS twice, the wait's own read and R92's. -/
theorem run_wait_readStatus_of_idle (ht : s.turns = []) (p : List HostOp) :
    Host.Core.run core 2 { s with hostProgram := .waitIdle :: .read 0x004 :: p } = .next
      { s with hostProgram := p, readLog := (0x004, statusWord s) :: (0x004, statusWord s) :: s.readLog } :=
  run_two (step_wait_of_idle hb ht _)
    (step_readStatus_of_idle (s := { s with readLog := (0x004, statusWord s) :: s.readLog }) hb ht p)

end Idle

/-- Settles O47: each sequence writes every word of its register, one step each. -/
theorem loadSequencesFillRegisters : Obligations.LoadSequencesFillRegisters := by
  intro s p hb ht
  constructor
  · intro b
    have hrun := run_writes (n := 16) rfl b (loaded := fun A q => { s with stateReg := A, hostProgram := q })
      (fun A j v q => (step_write_of_idle (s := { s with stateReg := A }) hb ht _ v q).trans
        (congrArg _ (busWrite_stateOffset (s := { s with stateReg := A, hostProgram := q }) hb j v)))
      (List.finRange 4) s.stateReg p
    rw [copyWords_finRange] at hrun
    exact hrun
  · intro K
    have hrun := run_writes (n := 32) rfl K (loaded := fun A q => { s with keyReg := A, hostProgram := q })
      (fun A j v q => (step_write_of_idle (s := { s with keyReg := A }) hb ht _ v q).trans
        (congrArg _ (busWrite_keyOffset (s := { s with keyReg := A, hostProgram := q }) hb j v)))
      (List.finRange 8) s.keyReg p
    rw [copyWords_finRange] at hrun
    exact hrun

/-- Settles O48: the write is accepted, the command completes, and both the wait and the read see the STATUS it leaves. -/
theorem runSequenceReportsStatus : Obligations.RunSequenceReportsStatus := by
  intro s p x hb ht
  obtain ⟨e, -, hexec⟩ := execute_ending { s with pend := x.assemble, busy := true, hostProgram := p }
  refine ⟨_, hexec _ (.refl _), e.leave_busy _, ?_⟩
  have hissue := step_cmd_of_idle hb ht x.assemble (.waitIdle :: .read 0x004 :: p)
  have hcomplete := (step_of_no_turn_of_busy
    (s := { s with pend := x.assemble, busy := true, hostProgram := .waitIdle :: .read 0x004 :: p }) ht rfl).trans
    (hexec _ (.of_registers rfl rfl rfl rfl rfl))
  have hstatus := run_wait_readStatus_of_idle (e.leave_busy { s with pend := x.assemble, busy := true, hostProgram := p })
    ((e.leave_turns _).trans ht) p
  calc Host.Core.run core 4 { s with hostProgram := run x ++ p }
      = Host.Core.run core 2
          (e.leave { s with pend := x.assemble, busy := true, hostProgram := .waitIdle :: .read 0x004 :: p }) :=
        (run_succ hissue 3).trans (run_succ hcomplete 2)
    _ = _ := ?_
  cases e <;> exact hstatus

end Sys2Proof.Machine
end
